-- ==== Sys2Proof/Word.lean ====
section
/-!
DEFINITION. The two word types of the machine (00_scope.md R7, last paragraph: A, B and P are 8 bits
wide, PC, S, X and D 16 bits). The helpers that split, join and extend them are in Machine/Bits.lean.
-/

namespace Sys2Proof

/-- An 8-bit value: an accumulator, an operand byte, one location of memory (R20, R34). -/
abbrev Byte := BitVec 8

/-- A 16-bit value: an address, PC, S, X or D (R20, R34). -/
abbrev Word := BitVec 16

end Sys2Proof
end

