-- ==== Sys2Proof/Config.lean ====
section
/-!
DEFINITION. What is fixed at launch (00_scope.md R7) and the free values (`draw(n)` of R11). The parameters are
plain data, held in State as `cfg` so that a theorem about every state is a theorem about every choice of them.
-/

namespace Sys2Proof

/-- VARIANT: the five parts of the title (R1, R2). -/
inductive Variant where
  | m6800 | m6801 | m6802 | m6803 | m6808
  deriving DecidableEq, Repr

/-- HAS_EXT derived from the part (R2; false for the M6808 by decision D1). -/
def Variant.hasExt : Variant → Bool
  | .m6801 => true
  | .m6803 => true
  | .m6800 => false
  | .m6802 => false
  | .m6808 => false

/-- STACK_CONVENTION (R7, R13): `card`, S points at the last byte pushed; `hw6800`, at the next free byte. -/
inductive StackConvention where
  | card | hw6800
  deriving DecidableEq, Repr

/-- V_UNKNOWN (R7; 10_state.md R33): what V is after INC, DEC, ROL and ROR. -/
inductive VUnknown where
  | draw | m6800
  deriving DecidableEq, Repr

/-- CPX_MODEL (R7; 41_arithmetic.md R151). -/
inductive CpxModel where
  | card16 | m6800
  deriving DecidableEq, Repr

/-- ILLEGAL_OPCODE (R7; 30_encoding.md R97): its one value, `refuse`. -/
inductive IllegalOpcode where
  | refuse
  deriving DecidableEq, Repr

/-- The four kinds of address of MEMMAP (20_memory.md R58). -/
inductive MapKind where
  | ram | rom | io | unmapped
  deriving DecidableEq, Repr

/-- One stretch of the address map: the addresses `lo` to `hi`, both included, are of one kind. -/
structure Region where
  lo : Word
  hi : Word
  kind : MapKind
  deriving DecidableEq, Repr

/-- DESIGN CHOICE (assumption log 7, safe over both values). What a reset step does to the registers and flags
whose value after reset the spec calls unspecified: `kept`, the letter of 70_reset_and_hazards.md R350; `drawn`, the draw of R351. -/
inductive ResetRegisters where
  | kept | drawn
  deriving DecidableEq, Repr

/-- The parameters of R7, with the defaults of its table. -/
structure Config where
  /-- VARIANT. -/
  variant : Variant := .m6801
  /-- HAS_EXT set directly (92_eei_decisions.md D1), or not. -/
  extOverride : Option Bool := none
  /-- STACK_CONVENTION. -/
  stack : StackConvention := .card
  /-- V_UNKNOWN. -/
  vUnknown : VUnknown := .draw
  /-- CPX_MODEL. -/
  cpx : CpxModel := .card16
  /-- ILLEGAL_OPCODE. -/
  illegal : IllegalOpcode := .refuse
  /-- MEMMAP: the first region that holds an address decides its kind; an address in none is `ram`. -/
  memmap : List Region := []
  /-- CCR_UNUSED_READ: what bits 7 and 6 of P read as (10_state.md R29). -/
  ccrUnused : BitVec 2 := 3#2
  /-- The unspecified registers at a reset step (assumption log 7). -/
  resetRegs : ResetRegisters := .kept
  deriving DecidableEq, Repr

/-- HAS_EXT: whether the thirteen `#` rows are instructions (R2, R7). -/
def Config.hasExt (c : Config) : Bool := c.extOverride.getD c.variant.hasExt

/-- `draw(1)` (R11): the bit drawn when `n` draws have been made before. A FREE VALUE: it has no body, so nothing
can be proved that depends on it (assumption log 6, safe). -/
opaque Config.freeBit : Nat → Bool

/-- `draw(8)` (R11): the byte drawn when `n` draws have been made before. A FREE VALUE (assumption log 6, safe). -/
opaque Config.freeByte : Nat → Byte

end Sys2Proof
end

