-- ==== Sys2Proof/Machine/Bits.lean ====
section
/-!
DEFINITION. Splitting, joining and extending words (00_scope.md R9): `v[hi:lo]`, `a:b`, `sext_16`, `zext_16`.
-/

namespace Sys2Proof

/-- `v[15:8]` (R9). -/
def hiByte (v : Word) : Byte := v.extractLsb' 8 8

/-- `v[7:0]` (R9). -/
def loByte (v : Word) : Byte := v.extractLsb' 0 8

/-- `h:l`, the concatenation with `h` in the high bits (R9). -/
def joinBytes (h l : Byte) : Word := h ++ l

/-- `sext_16(v)`: an 8-bit value extended by copying bit 7 (R9). -/
def sext16 (v : Byte) : Word := v.signExtend 16

/-- `zext_16(v)`: an 8-bit value extended with zeros (R9). -/
def zext16 (v : Byte) : Word := v.setWidth 16

/-- A flag as a one-bit value (R11: each flag is one bit of P). -/
def bit (f : Bool) : BitVec 1 := BitVec.ofBool f

end Sys2Proof
end

