-- ==== Sys2Proof/Machine/Memory.lean ====
section
/-!
DEFINITION. The memory `Mem : [0, 65535] -> [0, 255]` (10_state.md R35) as plain data: a list of (address, byte)
pairs in one canonical form, addresses strictly rising and no entry equal to what an unlisted address reads as.
-/

namespace Sys2Proof.Machine

/-- The listed bytes of memory. -/
abbrev Memory := List Host.Cell

/-- What an address that is not listed reads as. DESIGN CHOICE (assumption log 3, unsafe): the spec leaves RAM at
power-on unspecified (70_reset_and_hazards.md R352); every content of memory can be listed, so a statement about
every state does not rest on this byte. -/
def unlistedByte : Byte := 0

/-- The byte at key `k`. -/
def Memory.get : Memory → Nat → Byte
  | [], _ => unlistedByte
  | (k', v) :: rest, k => if k' = k then v else Memory.get rest k

/-- Memory with no entry at key `k`. -/
def Memory.erase (m : Memory) (k : Nat) : Memory := m.filter fun c => c.1 != k

/-- Memory with the entry `(k, v)`, in the place its key has among rising keys. -/
def Memory.insert : Memory → Nat → Byte → Memory
  | [], k, v => [(k, v)]
  | (k', v') :: rest, k, v =>
    if k < k' then (k, v) :: (k', v') :: rest
    else if k' = k then (k, v) :: rest
    else (k', v') :: Memory.insert rest k v

/-- Memory with the byte at key `k` set to `v`, in canonical form again: what an unlisted address reads as is not listed. -/
def Memory.put (m : Memory) (k : Nat) (v : Byte) : Memory :=
  if v = unlistedByte then m.erase k else m.insert k v

/-- `Mem[a]` (R35). -/
def Memory.read (m : Memory) (a : Word) : Byte := m.get a.toNat

/-- `Mem[a] <- v` (R12). -/
def Memory.write (m : Memory) (a : Word) (v : Byte) : Memory := m.put a.toNat v

/-- The canonical form: addresses strictly rising and below 65536 (R34), and no entry that says what an unlisted
address reads as anyway. -/
abbrev Memory.wf (m : Memory) : Prop :=
  m.Pairwise (fun c d => c.1 < d.1) ∧ ∀ c ∈ m, c.2 ≠ unlistedByte ∧ c.1 < 65536

end Sys2Proof.Machine
end

