-- ==== Sys2Proof/Machine/State.lean ====
section
/-!
DEFINITION. The state of the machine, whole (10_state.md R20 to R39): registers, flags, memory, the hidden items
of R36, the environment's inputs and coming moves (60_exceptions.md R323), the events of R58 and the parameters of
00_scope.md R7. Also what it is after reset, the named updates of one field, and the reasons a step can stop.
-/

namespace Sys2Proof.Machine

/-- The six flags of the condition code register P (R28). Bits 7 and 6 of P are not state (R29). -/
structure CCR where
  /-- Half carry, bit 5. -/
  h : Bool
  /-- Interrupt mask, bit 4. -/
  i : Bool
  /-- Negative, bit 3. -/
  n : Bool
  /-- Zero, bit 2. -/
  z : Bool
  /-- Overflow, bit 1. -/
  v : Bool
  /-- Carry, bit 0. -/
  c : Bool
  deriving DecidableEq, Repr

/-- What the environment does before one step (R320, R323). -/
structure EnvMove where
  /-- The level of `irq_line` from now on. -/
  irqLine : Bool
  /-- The level of `reset_line` from now on. -/
  resetLine : Bool
  /-- A non-maskable interrupt is requested now: `nmi_pending` is set, never cleared (R313, R323). -/
  nmi : Bool
  /-- Whether an eligible interrupt is accepted from now on (R311). -/
  accept : Bool
  deriving DecidableEq, Repr

/-- An access to an `io` address, recorded as an event (20_memory.md R58). -/
inductive IoEvent where
  | read (addr : Word)
  | write (addr : Word) (value : Byte)
  deriving DecidableEq, Repr

/-- The state of the machine. -/
structure State where
  /-- A (R20, R21). -/
  a : Byte
  /-- B (R20, R21). -/
  b : Byte
  /-- X, the index register (R23). -/
  x : Word
  /-- S, the stack pointer (R24). -/
  sp : Word
  /-- PC (R25). -/
  pc : Word
  /-- P, its six flags (R28). -/
  p : CCR
  /-- Mem (R35). -/
  mem : Memory
  /-- WAI has been executed and no interrupt accepted since (R36). -/
  waiting : Bool
  /-- A non-maskable interrupt is requested and not yet taken (R36). -/
  nmiPending : Bool
  /-- The level of the hardware interrupt request, an input (R36). -/
  irqLine : Bool
  /-- The level of the reset line, an input (R36). -/
  resetLine : Bool
  /-- The environment's choice to accept an eligible interrupt, an input (R311; assumption log 5). -/
  accept : Bool
  /-- The environment's coming moves, one a step; when none is left the inputs hold (assumption log 4). -/
  moves : List EnvMove
  /-- How many draws have been made: the model's own counter (R11; assumption log 6). -/
  draws : Nat
  /-- The events of accesses to `io` addresses, the newest first (R58; assumption log 9). -/
  ioLog : List IoEvent
  /-- The parameters, fixed at launch (00_scope.md R7). -/
  cfg : Config
  deriving DecidableEq, Repr

/-- The reasons for a fault: none. The machine has no synchronous fault (60_exceptions.md R300, R316). -/
inductive Fault where
  deriving DecidableEq, Repr

/-- The reasons a step has no meaning. -/
inductive Refusal where
  /-- Raised by an arm of `exec` for an instruction that has no meaning in the model (safe). No arm raises it. -/
  | notModelled (mnemonic : String)
  /-- Raised by the step for an unassigned opcode byte `op` at `addr` (30_encoding.md R97, ILLEGAL_OPCODE = refuse).
  Safe: no claim can be proved of a run that reaches one. -/
  | unassignedOpcode (op : Byte) (addr : Word)
  deriving DecidableEq, Repr

/-- What a step or an instruction answers. -/
abbrev Result := Host.Outcome State Fault Refusal

/-- The machine right after reset, the reset line just released (10_state.md R38; 70_reset_and_hazards.md R351).
I is 1, `waiting` and `nmi_pending` are false and PC holds the word at FFFE. The spec calls A, B, X, S, H, N, Z, V, C
unspecified: their value 0 is a DESIGN CHOICE (assumption log 2, unsafe), as is the content of memory (log 3). -/
def State.reset : State where
  a := 0
  b := 0
  x := 0
  sp := 0
  pc := joinBytes (Memory.read [] 0xFFFE) (Memory.read [] 0xFFFF)
  p := { h := false, i := true, n := false, z := false, v := false, c := false }
  mem := []
  waiting := false
  nmiPending := false
  irqLine := false
  resetLine := false
  accept := true
  moves := []
  draws := 0
  ioLog := []
  cfg := {}

/-! ## Updates of one field -/

/-- A <- v. -/
def State.setA (s : State) (v : Byte) : State := { s with a := v }
/-- B <- v. -/
def State.setB (s : State) (v : Byte) : State := { s with b := v }
/-- X <- v. -/
def State.setX (s : State) (v : Word) : State := { s with x := v }
/-- S <- v. -/
def State.setSP (s : State) (v : Word) : State := { s with sp := v }
/-- PC <- v. -/
def State.setPC (s : State) (v : Word) : State := { s with pc := v }
/-- All six flags <- v. -/
def State.setP (s : State) (v : CCR) : State := { s with p := v }
/-- Mem <- v. -/
def State.setMem (s : State) (v : Memory) : State := { s with mem := v }
/-- `waiting` <- v. -/
def State.setWaiting (s : State) (v : Bool) : State := { s with waiting := v }
/-- `nmi_pending` <- v. -/
def State.setNmiPending (s : State) (v : Bool) : State := { s with nmiPending := v }
/-- The count of draws <- v. -/
def State.setDraws (s : State) (v : Nat) : State := { s with draws := v }
/-- The list of `io` events <- v. -/
def State.setIoLog (s : State) (v : List IoEvent) : State := { s with ioLog := v }

end Sys2Proof.Machine
end

