-- ==== Sys2Proof/Syntax.lean ====
section
/-!
DEFINITION. The instructions (30_encoding.md R81, R93): one constructor per mnemonic of spec/opcode_table.json, in the
table's order. The table has one row per mnemonic AND operand format; the format is the constructor's argument, so
a row is a constructor with one form of its operand (`LDAA` DIR is `ldaa (.mem (.dir n))`).
-/

namespace Sys2Proof

/-- The accumulator `r` of the rows that exist for both (R10, R21). -/
inductive Acc where
  | A | B
  deriving DecidableEq, Repr

/-- A memory operand in one of the modes DIR, IDX, EXT (R88 to R90). -/
inductive Mode where
  /-- DIR, `n,D`: the low byte of an address in 0000 to 00FF (R89). -/
  | dir (n : Byte)
  /-- IDX, `nn,X`: the unsigned offset added to X (R90). -/
  | idx (off : Byte)
  /-- EXT, `nn,E`: the 16-bit address (R88). -/
  | ext (addr : Word)
  deriving DecidableEq, Repr

/-- A memory operand of a row that has only the modes IDX and EXT (R84). -/
inductive MemOp where
  /-- IDX (R90). -/
  | idx (off : Byte)
  /-- EXT (R88). -/
  | ext (addr : Word)
  deriving DecidableEq, Repr

/-- The operand as one of the three memory modes. -/
def MemOp.mode : MemOp → Mode
  | .idx off => .idx off
  | .ext addr => .ext addr

/-- An 8-bit source operand `s`: IMM8, or memory (R87 to R90, R92). -/
inductive Src8 where
  /-- IMM8, `#n` (R87). -/
  | imm (n : Byte)
  /-- DIR, IDX or EXT. -/
  | mem (m : Mode)
  deriving DecidableEq, Repr

/-- A 16-bit source operand `s`: IMM16, or memory (R87 to R90, R92). -/
inductive Src16 where
  /-- IMM16, `#nn` (R87). -/
  | imm (nn : Word)
  /-- DIR, IDX or EXT. -/
  | mem (m : Mode)
  deriving DecidableEq, Repr

/-- The instructions. Each constructor's docstring names its row of the card and the rule of spec/ that gives its meaning. -/
inductive Instr where
  /-- NOP: INH 01 (R248). -/
  | nop
  /-- LSRD: INH 04; `#` row (R197). -/
  | lsrd
  /-- ASLD: INH 05; `#` row (R192). -/
  | asld
  /-- TAP: INH 06 (R246). -/
  | tap
  /-- TPA: INH 07 (R247). -/
  | tpa
  /-- INX: INH 08 (R162). -/
  | inx
  /-- DEX: INH 09 (R163). -/
  | dex
  /-- CLV: INH 0A (R242). -/
  | clv
  /-- SEV: INH 0B (R243). -/
  | sev
  /-- CLC: INH 0C (R240). -/
  | clc
  /-- SEC: INH 0D (R241). -/
  | sec
  /-- CLI: INH 0E (R244). -/
  | cli
  /-- SEI: INH 0F (R245). -/
  | sei
  /-- SBA: INH 10 (R145). -/
  | sba
  /-- CBA: INH 11 (R149). -/
  | cba
  /-- TAB: INH 16 (R118). -/
  | tab
  /-- TBA: INH 17 (R119). -/
  | tba
  /-- DAA: INH 19 (R152). -/
  | daa
  /-- ABA: INH 1B (R140). -/
  | aba
  /-- BRA: REL 20 (R210). -/
  | bra (rel : Byte)
  /-- BRN: REL 21; `#` row (R211). -/
  | brn (rel : Byte)
  /-- BHI: REL 22 (R220). -/
  | bhi (rel : Byte)
  /-- BLS: REL 23 (R221). -/
  | bls (rel : Byte)
  /-- BCC: REL 24 (R212). -/
  | bcc (rel : Byte)
  /-- BHS: REL 24; `#` row (R226). -/
  | bhs (rel : Byte)
  /-- BCS: REL 25 (R213). -/
  | bcs (rel : Byte)
  /-- BLO: REL 25; `#` row (R227). -/
  | blo (rel : Byte)
  /-- BNE: REL 26 (R215). -/
  | bne (rel : Byte)
  /-- BEQ: REL 27 (R214). -/
  | beq (rel : Byte)
  /-- BVC: REL 28 (R218). -/
  | bvc (rel : Byte)
  /-- BVS: REL 29 (R219). -/
  | bvs (rel : Byte)
  /-- BPL: REL 2A (R217). -/
  | bpl (rel : Byte)
  /-- BMI: REL 2B (R216). -/
  | bmi (rel : Byte)
  /-- BGE: REL 2C (R222). -/
  | bge (rel : Byte)
  /-- BLT: REL 2D (R223). -/
  | blt (rel : Byte)
  /-- BGT: REL 2E (R224). -/
  | bgt (rel : Byte)
  /-- BLE: REL 2F (R225). -/
  | ble (rel : Byte)
  /-- TSX: INH 30 (R120). -/
  | tsx
  /-- INS: INH 31 (R160). -/
  | ins
  /-- PULA: INH 32 (R125). -/
  | pula
  /-- PULB: INH 33 (R126). -/
  | pulb
  /-- DES: INH 34 (R161). -/
  | des
  /-- TXS: INH 35 (R121). -/
  | txs
  /-- PSHA: INH 36 (R122). -/
  | psha
  /-- PSHB: INH 37 (R123). -/
  | pshb
  /-- PULX: INH 38; `#` row (R127). -/
  | pulx
  /-- RTS: INH 39 (R231). -/
  | rts
  /-- ABX: INH 3A; `#` row (R141). -/
  | abx
  /-- RTI: INH 3B (R250). -/
  | rti
  /-- PSHX: INH 3C; `#` row (R124). -/
  | pshx
  /-- MUL: INH 3D; `#` row (R153). -/
  | mul
  /-- WAI: INH 3E (R251). -/
  | wai
  /-- SWI: INH 3F (R249). -/
  | swi
  /-- NEGA: INH 40 (R155). -/
  | nega
  /-- COMA: INH 43 (R185). -/
  | coma
  /-- LSRA: INH 44 (R196). -/
  | lsra
  /-- RORA: INH 46 (R201). -/
  | rora
  /-- ASRA: INH 47 (R194). -/
  | asra
  /-- ASLA: INH 48 (R191). -/
  | asla
  /-- ROLA: INH 49 (R199). -/
  | rola
  /-- DECA: INH 4A (R159). -/
  | deca
  /-- INCA: INH 4C (R157). -/
  | inca
  /-- TSTA: INH 4D (R167). -/
  | tsta
  /-- CLRA: INH 4F (R165). -/
  | clra
  /-- NEGB: INH 50 (R155). -/
  | negb
  /-- COMB: INH 53 (R185). -/
  | comb
  /-- LSRB: INH 54 (R196). -/
  | lsrb
  /-- RORB: INH 56 (R201). -/
  | rorb
  /-- ASRB: INH 57 (R194). -/
  | asrb
  /-- ASLB: INH 58 (R191). -/
  | aslb
  /-- ROLB: INH 59 (R199). -/
  | rolb
  /-- DECB: INH 5A (R159). -/
  | decb
  /-- INCB: INH 5C (R157). -/
  | incb
  /-- TSTB: INH 5D (R167). -/
  | tstb
  /-- CLRB: INH 5F (R165). -/
  | clrb
  /-- NEG: IDX 60, EXT 70 (R154). -/
  | neg (o : MemOp)
  /-- COM: IDX 63, EXT 73 (R184). -/
  | com (o : MemOp)
  /-- LSR: IDX 64, EXT 74 (R195). -/
  | lsr (o : MemOp)
  /-- ROR: IDX 66, EXT 76 (R200). -/
  | ror (o : MemOp)
  /-- ASR: IDX 67, EXT 77 (R193). -/
  | asr (o : MemOp)
  /-- ASL: IDX 68, EXT 78 (R190). -/
  | asl (o : MemOp)
  /-- ROL: IDX 69, EXT 79 (R198). -/
  | rol (o : MemOp)
  /-- DEC: IDX 6A, EXT 7A (R158). -/
  | dec (o : MemOp)
  /-- INC: IDX 6C, EXT 7C (R156). -/
  | inc (o : MemOp)
  /-- TST: IDX 6D, EXT 7D (R166). -/
  | tst (o : MemOp)
  /-- JMP: IDX 6E, EXT 7E (R229). -/
  | jmp (o : MemOp)
  /-- CLR: IDX 6F, EXT 7F (R164). -/
  | clr (o : MemOp)
  /-- SUBA: IMM8 80, DIR 90, IDX A0, EXT B0 (R147). -/
  | suba (o : Src8)
  /-- CMPA: IMM8 81, DIR 91, IDX A1, EXT B1 (R150). -/
  | cmpa (o : Src8)
  /-- SBCA: IMM8 82, DIR 92, IDX A2, EXT B2 (R146). -/
  | sbca (o : Src8)
  /-- SUBD: IMM16 83, DIR 93, IDX A3, EXT B3; `#` row (R148). -/
  | subd (o : Src16)
  /-- ANDA: IMM8 84, DIR 94, IDX A4, EXT B4 (R180). -/
  | anda (o : Src8)
  /-- BITA: IMM8 85, DIR 95, IDX A5, EXT B5 (R181). -/
  | bita (o : Src8)
  /-- LDAA: IMM8 86, DIR 96, IDX A6, EXT B6 (R110). -/
  | ldaa (o : Src8)
  /-- EORA: IMM8 88, DIR 98, IDX A8, EXT B8 (R182). -/
  | eora (o : Src8)
  /-- ADCA: IMM8 89, DIR 99, IDX A9, EXT B9 (R142). -/
  | adca (o : Src8)
  /-- ORAA: IMM8 8A, DIR 9A, IDX AA, EXT BA (R183). -/
  | oraa (o : Src8)
  /-- ADDA: IMM8 8B, DIR 9B, IDX AB, EXT BB (R143). -/
  | adda (o : Src8)
  /-- CPX: IMM16 8C, DIR 9C, IDX AC, EXT BC (R151). -/
  | cpx (o : Src16)
  /-- BSR: REL 8D (R228). -/
  | bsr (rel : Byte)
  /-- LDS: IMM16 8E, DIR 9E, IDX AE, EXT BE (R112). -/
  | lds (o : Src16)
  /-- STAA: DIR 97, IDX A7, EXT B7 (R114). -/
  | staa (o : Mode)
  /-- STS: DIR 9F, IDX AF, EXT BF (R116). -/
  | sts (o : Mode)
  /-- JSR: IDX AD, EXT BD (R230). -/
  | jsr (o : MemOp)
  /-- SUBB: IMM8 C0, DIR D0, IDX E0, EXT F0 (R147). -/
  | subb (o : Src8)
  /-- CMPB: IMM8 C1, DIR D1, IDX E1, EXT F1 (R150). -/
  | cmpb (o : Src8)
  /-- SBCB: IMM8 C2, DIR D2, IDX E2, EXT F2 (R146). -/
  | sbcb (o : Src8)
  /-- ADDD: IMM16 C3, DIR D3, IDX E3, EXT F3; `#` row (R144). -/
  | addd (o : Src16)
  /-- ANDB: IMM8 C4, DIR D4, IDX E4, EXT F4 (R180). -/
  | andb (o : Src8)
  /-- BITB: IMM8 C5, DIR D5, IDX E5, EXT F5 (R181). -/
  | bitb (o : Src8)
  /-- LDAB: IMM8 C6, DIR D6, IDX E6, EXT F6 (R110). -/
  | ldab (o : Src8)
  /-- EORB: IMM8 C8, DIR D8, IDX E8, EXT F8 (R182). -/
  | eorb (o : Src8)
  /-- ADCB: IMM8 C9, DIR D9, IDX E9, EXT F9 (R142). -/
  | adcb (o : Src8)
  /-- ORAB: IMM8 CA, DIR DA, IDX EA, EXT FA (R183). -/
  | orab (o : Src8)
  /-- ADDB: IMM8 CB, DIR DB, IDX EB, EXT FB (R143). -/
  | addb (o : Src8)
  /-- LDD: IMM16 CC, DIR DC, IDX EC, EXT FC; `#` row (R111). -/
  | ldd (o : Src16)
  /-- LDX: IMM16 CE, DIR DE, IDX EE, EXT FE (R113). -/
  | ldx (o : Src16)
  /-- STAB: DIR D7, IDX E7, EXT F7 (R114). -/
  | stab (o : Mode)
  /-- STD: DIR DD, IDX ED, EXT FD; `#` row (R115). -/
  | std (o : Mode)
  /-- STX: DIR DF, IDX EF, EXT FF (R117). -/
  | stx (o : Mode)
  deriving DecidableEq, Repr

/-- The rows marked `#`, "Instruction not applicable to 6800/2" (R2): they exist only when HAS_EXT. BHS and BLO are
marked as mnemonics; their opcodes exist on every part, as BCC and BCS (R96). -/
def Instr.extOnly : Instr → Bool
  | .nop => false
  | .lsrd => true
  | .asld => true
  | .tap => false
  | .tpa => false
  | .inx => false
  | .dex => false
  | .clv => false
  | .sev => false
  | .clc => false
  | .sec => false
  | .cli => false
  | .sei => false
  | .sba => false
  | .cba => false
  | .tab => false
  | .tba => false
  | .daa => false
  | .aba => false
  | .bra _ => false
  | .brn _ => true
  | .bhi _ => false
  | .bls _ => false
  | .bcc _ => false
  | .bhs _ => true
  | .bcs _ => false
  | .blo _ => true
  | .bne _ => false
  | .beq _ => false
  | .bvc _ => false
  | .bvs _ => false
  | .bpl _ => false
  | .bmi _ => false
  | .bge _ => false
  | .blt _ => false
  | .bgt _ => false
  | .ble _ => false
  | .tsx => false
  | .ins => false
  | .pula => false
  | .pulb => false
  | .des => false
  | .txs => false
  | .psha => false
  | .pshb => false
  | .pulx => true
  | .rts => false
  | .abx => true
  | .rti => false
  | .pshx => true
  | .mul => true
  | .wai => false
  | .swi => false
  | .nega => false
  | .coma => false
  | .lsra => false
  | .rora => false
  | .asra => false
  | .asla => false
  | .rola => false
  | .deca => false
  | .inca => false
  | .tsta => false
  | .clra => false
  | .negb => false
  | .comb => false
  | .lsrb => false
  | .rorb => false
  | .asrb => false
  | .aslb => false
  | .rolb => false
  | .decb => false
  | .incb => false
  | .tstb => false
  | .clrb => false
  | .neg _ => false
  | .com _ => false
  | .lsr _ => false
  | .ror _ => false
  | .asr _ => false
  | .asl _ => false
  | .rol _ => false
  | .dec _ => false
  | .inc _ => false
  | .tst _ => false
  | .jmp _ => false
  | .clr _ => false
  | .suba _ => false
  | .cmpa _ => false
  | .sbca _ => false
  | .subd _ => true
  | .anda _ => false
  | .bita _ => false
  | .ldaa _ => false
  | .eora _ => false
  | .adca _ => false
  | .oraa _ => false
  | .adda _ => false
  | .cpx _ => false
  | .bsr _ => false
  | .lds _ => false
  | .staa _ => false
  | .sts _ => false
  | .jsr _ => false
  | .subb _ => false
  | .cmpb _ => false
  | .sbcb _ => false
  | .addd _ => true
  | .andb _ => false
  | .bitb _ => false
  | .ldab _ => false
  | .eorb _ => false
  | .adcb _ => false
  | .orab _ => false
  | .addb _ => false
  | .ldd _ => true
  | .ldx _ => false
  | .stab _ => false
  | .std _ => true
  | .stx _ => false

/-- The instruction a decoder reads from this one's bytes: itself, but for the two second names BHS (of BCC) and BLO
(of BCS), which no decoder can tell apart from the first (R96, R226, R227). -/
def Instr.canonical : Instr → Instr
  | .bhs rel => .bcc rel
  | .blo rel => .bcs rel
  | i => i

end Sys2Proof
end

