-- ==== Sys2Proof/Machine/Ops.lean ====
section
/-!
DEFINITION. The named operations every meaning is written with: draws (00_scope.md R11), memory (R12, 20_memory.md R58),
the stack (R13), the register frame (R14), P as a byte (R28, R29), taking an exception (60_exceptions.md R304), reset
(70_reset_and_hazards.md R350) and what happens at an instruction boundary (60_exceptions.md R310, R320).
An operation that answers a value answers it with the state after it.
-/

namespace Sys2Proof.Machine

/-! ## Registers -/

/-- The accumulator `r` (R21). -/
def State.acc (r : Acc) (s : State) : Byte :=
  match r with
  | .A => s.a
  | .B => s.b

/-- `r <- v` (R21). -/
def State.setAcc (r : Acc) (s : State) (v : Byte) : State :=
  match r with
  | .A => s.setA v
  | .B => s.setB v

/-- D, the pair `A:B` (R22). -/
def State.d (s : State) : Word := joinBytes s.a s.b

/-- `D <- v`: both accumulators are written (R22). -/
def State.setD (s : State) (v : Word) : State := (s.setA (hiByte v)).setB (loByte v)

/-- I <- f (R30). -/
def State.setI (s : State) (f : Bool) : State := s.setP { s.p with i := f }

/-! ## Draws (R11): each takes the next free value and counts it -/

/-- `draw(1)`. -/
def drawBit (s : State) : Bool × State := (Config.freeBit s.draws, s.setDraws (s.draws + 1))

/-- `draw(8)`. -/
def drawByte (s : State) : Byte × State := (Config.freeByte s.draws, s.setDraws (s.draws + 1))

/-- `draw(16)`, as two bytes. -/
def drawWord (s : State) : Word × State :=
  let h := drawByte s
  let l := drawByte h.2
  (joinBytes h.1 l.1, l.2)

/-! ## Memory (R12, R54, R58) -/

/-- The address lies in the region, both ends included. -/
def regionHolds (r : Region) (addr : Word) : Bool := r.lo.toNat ≤ addr.toNat && addr.toNat ≤ r.hi.toNat

/-- The kind that a list of regions gives an address: the first that holds it decides, `ram` where none does (R58). -/
def kindIn : List Region → Word → MapKind
  | [], _ => .ram
  | r :: rest, addr => if regionHolds r addr then r.kind else kindIn rest addr

/-- MEMMAP: the kind of an address (R58). -/
def State.kindAt (s : State) (addr : Word) : MapKind := kindIn s.cfg.memmap addr

/-- An event is recorded (R58). -/
def State.record (s : State) (e : IoEvent) : State := s.setIoLog (e :: s.ioLog)

/-- `MemRead(addr, 1)` (R12, R58). -/
def memRead8 (addr : Word) (s : State) : Byte × State :=
  match s.kindAt addr with
  | .ram => (s.mem.read addr, s)
  | .rom => (s.mem.read addr, s)
  | .io => drawByte (s.record (.read addr))
  | .unmapped => drawByte s

/-- `MemRead(addr, 2)`: the byte at `addr` is the high one and is read first (R12, R50, R54). -/
def memRead16 (addr : Word) (s : State) : Word × State :=
  let h := memRead8 addr s
  let l := memRead8 (addr + 1) h.2
  (joinBytes h.1 l.1, l.2)

/-- `MemWrite(addr, 1, v)` (R12, R58). -/
def memWrite8 (addr : Word) (v : Byte) (s : State) : State :=
  match s.kindAt addr with
  | .ram => s.setMem (s.mem.write addr v)
  | .rom => s
  | .io => s.record (.write addr v)
  | .unmapped => s

/-- `MemWrite(addr, 2, v)`: the high byte at `addr`, first, then the low byte at `addr + 1` (R12, R50, R54). -/
def memWrite16 (addr v : Word) (s : State) : State :=
  memWrite8 (addr + 1) (loByte v) (memWrite8 addr (hiByte v) s)

/-! ## The stack (R13) -/

/-- The address a push stores to when S is `sp` (R13). -/
def pushAddr (c : StackConvention) (sp : Word) : Word :=
  match c with
  | .card => sp - 1
  | .hw6800 => sp

/-- The address a pull reads when S is `sp` (R13). -/
def pullAddr (c : StackConvention) (sp : Word) : Word :=
  match c with
  | .card => sp
  | .hw6800 => sp + 1

/-- `Push8(v)`: the byte is stored and S is one lower, in the order of the stack convention (R13). -/
def push8 (v : Byte) (s : State) : State :=
  match s.cfg.stack with
  | .card => memWrite8 (pushAddr .card s.sp) v (s.setSP (s.sp - 1))
  | .hw6800 => (memWrite8 (pushAddr .hw6800 s.sp) v s).setSP (s.sp - 1)

/-- `Pull8()`: the byte is read and S is one higher (R13). -/
def pull8 (s : State) : Byte × State :=
  match s.cfg.stack with
  | .card =>
    let r := memRead8 (pullAddr .card s.sp) s
    (r.1, r.2.setSP (s.sp + 1))
  | .hw6800 => memRead8 (pullAddr .hw6800 s.sp) (s.setSP (s.sp + 1))

/-- `Push16(v)`: the low byte is pushed first (R13). -/
def push16 (v : Word) (s : State) : State := push8 (hiByte v) (push8 (loByte v) s)

/-- `Pull16()`: the high byte is pulled first (R13). -/
def pull16 (s : State) : Word × State :=
  let h := pull8 s
  let l := pull8 h.2
  (joinBytes h.1 l.1, l.2)

/-! ## P as a byte, and the register frame (R14, R28, R29) -/

/-- `PRead()`: bits 7 and 6 are CCR_UNUSED_READ, then H, I, N, Z, V, C (R14, R29). -/
def CCR.toByte (unused : BitVec 2) (p : CCR) : Byte :=
  unused ++ bit p.h ++ bit p.i ++ bit p.n ++ bit p.z ++ bit p.v ++ bit p.c

/-- `PWrite(v)`: bits 7 and 6 are dropped (R14, R29). -/
def CCR.ofByte (v : Byte) : CCR where
  h := v.getLsbD 5
  i := v.getLsbD 4
  n := v.getLsbD 3
  z := v.getLsbD 2
  v := v.getLsbD 1
  c := v.getLsbD 0

/-- `PRead()` of a state (R14). -/
def pRead (s : State) : Byte := s.p.toByte s.cfg.ccrUnused

/-- `StackRegs()`: PC, X, A, B and P are pushed in this order, seven bytes (R14). -/
def stackRegs (s : State) : State :=
  let s1 := push16 s.pc s
  let s2 := push16 s.x s1
  let s3 := push8 s.a s2
  let s4 := push8 s.b s3
  push8 (pRead s) s4

/-- `UnstackRegs()`, the return from an exception: P, B, A, X and PC are pulled in this order (R14; 60_exceptions.md R307). -/
def unstackRegs (s : State) : State :=
  let p := pull8 s
  let b := pull8 (p.2.setP (CCR.ofByte p.1))
  let a := pull8 (b.2.setB b.1)
  let x := pull16 (a.2.setA a.1)
  let pc := pull16 (x.2.setX x.1)
  pc.2.setPC pc.1

/-! ## Taking an exception (R302, R304) -/

/-- VEC_IRQ, the hardware interrupt vector (20_memory.md R57). -/
def vecIrq : Word := 0xFFF8
/-- VEC_SWI, the SWI instruction interrupt vector (R57). -/
def vecSwi : Word := 0xFFFA
/-- VEC_NMI, the non-maskable interrupt vector (R57). -/
def vecNmi : Word := 0xFFFC
/-- VEC_RESET, the reset vector (R57). -/
def vecReset : Word := 0xFFFE

/-- The end of every entry, once the frame is on the stack: I is set and PC read from the vector (R304, R306). -/
def enterHandler (vec : Word) (s : State) : State :=
  let pc := memRead16 vec (s.setI true)
  pc.2.setPC pc.1

/-- The exception an instruction takes (SWI): the frame is stacked, then the handler entered (R249, R304). -/
def takeTrap (vec : Word) (s : State) : State := enterHandler vec (stackRegs s)

/-- `Enter(vec)`: an interrupt is taken at an instruction boundary. After WAI the frame is on the stack already (R304, R322). -/
def takeInterrupt (vec : Word) (s : State) : State :=
  let s1 := (if s.waiting then s else stackRegs s).setWaiting false
  enterHandler vec (if vec = vecNmi then s1.setNmiPending false else s1)

/-! ## Reset (R350, R351) -/

/-- Every register and flag whose value after reset is unspecified takes a free value (R351; assumption log 7). -/
def drawRegisters (s : State) : State :=
  let a := drawByte s
  let b := drawByte a.2
  let x := drawWord b.2
  let sp := drawWord x.2
  let h := drawBit sp.2
  let n := drawBit h.2
  let z := drawBit n.2
  let v := drawBit z.2
  let c := drawBit v.2
  ((((c.2.setA a.1).setB b.1).setX x.1).setSP sp.1).setP
    { h := h.1, i := s.p.i, n := n.1, z := z.1, v := v.1, c := c.1 }

/-- `ResetSeq()` (R350): I is set, `waiting` and `nmi_pending` cleared, PC read from FFFE. The unspecified registers
are as the parameter `resetRegs` says (assumption log 7). -/
def resetSeq (s : State) : State :=
  let s1 :=
    match s.cfg.resetRegs with
    | .kept => s
    | .drawn => drawRegisters s
  let pc := memRead16 vecReset (((s1.setI true).setWaiting false).setNmiPending false)
  pc.2.setPC pc.1

/-! ## The instruction boundary (R310, R311, R320) -/

/-- The environment's next move, if it has one (R320, R323): the lines take their new level, an NMI request is latched
and one already latched absorbs another (R313). -/
def envMove (s : State) : State :=
  match s.moves with
  | [] => s
  | m :: rest =>
    { s with
      irqLine := m.irqLine
      resetLine := m.resetLine
      nmiPending := s.nmiPending || m.nmi
      accept := m.accept
      moves := rest }

/-- The vector of the eligible event of highest priority: NMI whatever I is, then IRQ where I is 0 (R302, R310, R311). -/
def eligible (s : State) : Option Word :=
  if s.nmiPending then some vecNmi
  else if s.irqLine && !s.p.i then some vecIrq
  else none

/-- What a step does at the boundary (R320). -/
inductive Boundary where
  /-- Reset, which overrides everything (R310). -/
  | reset
  /-- An eligible interrupt is accepted, through this vector. -/
  | interrupt (vec : Word)
  /-- Nothing: the processor waits (R322). -/
  | wait
  /-- The next instruction is fetched and executed. -/
  | run
  deriving DecidableEq, Repr

/-- The choice of R320: reset, else an accepted interrupt, else waiting, else the next instruction. -/
def boundary (s : State) : Boundary :=
  if s.resetLine then .reset
  else
    match eligible s with
    | some vec => if s.accept then .interrupt vec else if s.waiting then .wait else .run
    | none => if s.waiting then .wait else .run

end Sys2Proof.Machine
end

