-- ==== Sys2Proof/Machine/Flags.lean ====
section
/-!
DEFINITION. Every flag computation of the spec: the helpers of 00_scope.md R15, the shifts of 43_shift_rotate.md R189,
the unknown V of 10_state.md R33, decimal adjust (41_arithmetic.md R152), multiply (R153) and the flags of CPX (R151).
A helper that answers a value answers it with the flags after it.
-/

namespace Sys2Proof.Machine

/-! ## N and Z (R15) -/

/-- `NZ8(r)`. -/
def CCR.nz8 (p : CCR) (r : Byte) : CCR := { p with n := r.getLsbD 7, z := r == 0 }

/-- `NZ16(r)`. -/
def CCR.nz16 (p : CCR) (r : Word) : CCR := { p with n := r.getLsbD 15, z := r == 0 }

/-- `NZ8(v); V <- 0`: loads, stores, transfers and logic (R110, R114, R118, R180). -/
def CCR.moved8 (p : CCR) (v : Byte) : CCR := { p.nz8 v with v := false }

/-- `NZ16(v); V <- 0`: 16-bit loads and stores (R111, R115). -/
def CCR.moved16 (p : CCR) (v : Word) : CCR := { p.nz16 v with v := false }

/-! ## Addition and subtraction (R15) -/

/-- The carry-in as a number, 0 or 1. -/
def carryIn (c : Bool) : Nat := if c then 1 else 0

/-- `Add8(a, b, cin)`: the sum modulo 256, and H, N, Z, V, C (R15). -/
def add8 (a b : Byte) (cin : Bool) (p : CCR) : Byte × CCR :=
  let t : BitVec 9 := a.setWidth 9 + b.setWidth 9 + BitVec.ofNat 9 (carryIn cin)
  let r : Byte := t.setWidth 8
  (r, { p.nz8 r with
        h := decide (16 ≤ a.toNat % 16 + b.toNat % 16 + carryIn cin)
        v := (a.getLsbD 7 == b.getLsbD 7) && (r.getLsbD 7 != a.getLsbD 7)
        c := t.getLsbD 8 })

/-- `Sub8(a, b, bin)`: the difference modulo 256, and N, Z, V, C; C is the borrow, and H is not written (R15). -/
def sub8 (a b : Byte) (bin : Bool) (p : CCR) : Byte × CCR :=
  let r : Byte := a - b - BitVec.ofNat 8 (carryIn bin)
  (r, { p.nz8 r with
        v := (a.getLsbD 7 != b.getLsbD 7) && (r.getLsbD 7 != a.getLsbD 7)
        c := decide (a.toNat < b.toNat + carryIn bin) })

/-- `Add16(a, b)`: the sum modulo 65536, and N, Z, V, C (R15). -/
def add16 (a b : Word) (p : CCR) : Word × CCR :=
  let t : BitVec 17 := a.setWidth 17 + b.setWidth 17
  let r : Word := t.setWidth 16
  (r, { p.nz16 r with
        v := (a.getLsbD 15 == b.getLsbD 15) && (r.getLsbD 15 != a.getLsbD 15)
        c := t.getLsbD 16 })

/-- `Sub16(a, b)`: the difference modulo 65536, and N, Z, V, C (R15). -/
def sub16 (a b : Word) (p : CCR) : Word × CCR :=
  let r : Word := a - b
  (r, { p.nz16 r with
        v := (a.getLsbD 15 != b.getLsbD 15) && (r.getLsbD 15 != a.getLsbD 15)
        c := decide (a.toNat < b.toNat) })

/-- The flags of `CPX` under CPX_MODEL (R151): of the 16-bit subtraction, or N and V of the high bytes, Z of all 16
bits, and C as it was. -/
def cpxFlags (model : CpxModel) (x m : Word) (p : CCR) : CCR :=
  match model with
  | .card16 => (sub16 x m p).2
  | .m6800 => { (sub8 (hiByte x) (hiByte m) false p).2 with c := p.c, z := x == m }

/-! ## Shifts and rotates by one bit (R189) -/

/-- The flags of a shift of the `*` rows: C takes the bit shifted out, N and Z are the result's, V <- N xor C (R189). -/
def CCR.shifted8 (p : CCR) (v : Byte) (out : Bool) : CCR :=
  { p.nz8 v with c := out, v := v.getLsbD 7 ^^ out }

/-- The same over 16 bits (R192, R197). -/
def CCR.shifted16 (p : CCR) (v : Word) (out : Bool) : CCR :=
  { p.nz16 v with c := out, v := v.getLsbD 15 ^^ out }

/-- ASL of a byte (R190). -/
def asl8 (m : Byte) (p : CCR) : Byte × CCR :=
  let v := m <<< 1
  (v, p.shifted8 v (m.getLsbD 7))

/-- ASR of a byte: bit 7 is kept (R193). -/
def asr8 (m : Byte) (p : CCR) : Byte × CCR :=
  let v := (m >>> 1) ||| (m &&& 0x80)
  (v, p.shifted8 v (m.getLsbD 0))

/-- LSR of a byte: N <- 0 (R195). -/
def lsr8 (m : Byte) (p : CCR) : Byte × CCR :=
  let v := m >>> 1
  (v, { p with n := false, z := v == 0, c := m.getLsbD 0, v := false ^^ m.getLsbD 0 })

/-- ASLD (R192). -/
def asl16 (d : Word) (p : CCR) : Word × CCR :=
  let v := d <<< 1
  (v, p.shifted16 v (d.getLsbD 15))

/-- LSRD: N <- 0 (R197). -/
def lsr16 (d : Word) (p : CCR) : Word × CCR :=
  let v := d >>> 1
  (v, { p with n := false, z := v == 0, c := d.getLsbD 0, v := false ^^ d.getLsbD 0 })

/-- The byte that ROL gives: the old C enters bit 0 (R198). -/
def rolByte (m : Byte) (c0 : Bool) : Byte := (m <<< 1) ||| (bit c0).setWidth 8

/-- The byte that ROR gives: the old C enters bit 7 (R200). -/
def rorByte (m : Byte) (c0 : Bool) : Byte := (m >>> 1) ||| ((bit c0).setWidth 8 <<< 7)

/-! ## Values the spec leaves open -/

/-- V after INC, DEC, ROL, ROR: a draw under V_UNKNOWN = draw, else the `m6800` formula's value (R33). -/
def unknownV (m6800 : Bool) (s : State) : Bool × State :=
  match s.cfg.vUnknown with
  | .draw => drawBit s
  | .m6800 => (m6800, s)

/-! ## Decimal adjust and multiply -/

/-- The correction DAA adds to A (R152). -/
def daaCorrection (a : Byte) (h c : Bool) : Byte :=
  let lo := a.toNat % 16
  let hi := a.toNat / 16
  (if lo > 9 ∨ h = true then 0x06 else 0x00) |||
    (if hi > 9 ∨ c = true ∨ (hi > 8 ∧ lo > 9) then 0x60 else 0x00)

/-- DAA: the adjusted byte and the flags with this V; C is set by a carry out of bit 7 and never cleared (R152). -/
def daa8 (a : Byte) (v : Bool) (p : CCR) : Byte × CCR :=
  let t : BitVec 9 := a.setWidth 9 + (daaCorrection a p.h p.c).setWidth 9
  let r : Byte := t.setWidth 8
  (r, { p.nz8 r with v := v, c := p.c || t.getLsbD 8 })

/-- MUL: the unsigned 16-bit product; only C is written, with bit 7 of the product (R153). -/
def mul8 (a b : Byte) (p : CCR) : Word × CCR :=
  let v := zext16 a * zext16 b
  (v, { p with c := v.getLsbD 7 })

end Sys2Proof.Machine
end

