-- ==== Sys2Proof/Machine/Operands.lean ====
section
/-!
DEFINITION. Effective addresses and operands (30_encoding.md R87 to R92). An instruction's bytes have been fetched,
so PC is PCnext, the address of the next instruction (10_state.md R25; assumption log 11).
-/

namespace Sys2Proof.Machine

/-- The effective address of a memory operand: DIR `zext_16(n)`, IDX `X + zext_16(off)`, EXT the address (R88 to R90). -/
def ea (m : Mode) (s : State) : Word :=
  match m with
  | .dir n => zext16 n
  | .idx off => s.x + zext16 off
  | .ext addr => addr

/-- The target of a relative branch: `PCnext + sext_16(rel)` (R91). -/
def relTarget (rel : Byte) (s : State) : Word := s.pc + sext16 rel

/-- `Src8(f)` (R92). -/
def src8 (o : Src8) (s : State) : Byte × State :=
  match o with
  | .imm n => (n, s)
  | .mem m => memRead8 (ea m s) s

/-- `Src16(f)` (R92). -/
def src16 (o : Src16) (s : State) : Word × State :=
  match o with
  | .imm nn => (nn, s)
  | .mem m => memRead16 (ea m s) s

/-- `Dst8(f, v)` (R92). -/
def dst8 (m : Mode) (v : Byte) (s : State) : State := memWrite8 (ea m s) v s

/-- `Dst16(f, v)` (R92). -/
def dst16 (m : Mode) (v : Word) (s : State) : State := memWrite16 (ea m s) v s

/-- A read, a computation and a write of one memory byte (20_memory.md R56). -/
def modifyMem (o : MemOp) (f : Byte → State → Byte × State) (s : State) : State :=
  let addr := ea o.mode s
  let m := memRead8 addr s
  let v := f m.1 m.2
  memWrite8 addr v.1 v.2

/-- The same computation on an accumulator. -/
def modifyAcc (r : Acc) (f : Byte → State → Byte × State) (s : State) : State :=
  let v := f (s.acc r) s
  v.2.setAcc r v.1

/-- A computation that gives a value and flags, as one on the state. -/
def withFlags (f : Byte → CCR → Byte × CCR) (m : Byte) (s : State) : Byte × State :=
  let v := f m s.p
  (v.1, s.setP v.2)

end Sys2Proof.Machine
end

