-- ==== Sys2Proof/Machine/Arithmetic.lean ====
section
/-!
DEFINITION. Arithmetic, compare, increment, clear and test (41_arithmetic.md R139 to R167).
Each instruction has a meaning of its own, over the shared operations; an instruction's bytes have been fetched and
PC is PCnext (assumption log 11). No instruction can fail (60_exceptions.md R300): every meaning answers a next state.
-/

namespace Sys2Proof.Machine

/-! ## Shared operations -/

/-- `m <- Src8(f); r <- op(r, m)` with the flags of `op` (R142, R143, R146, R147). -/
def aluAcc (r : Acc) (op : Byte → Byte → CCR → Byte × CCR) (o : Src8) (s : State) : State :=
  let m := src8 o s
  let v := op (s.acc r) m.1 s.p
  (m.2.setAcc r v.1).setP v.2

/-- `m <- Src8(f); Sub8(r, m, 0)`, the result discarded (R150). -/
def compareAcc (r : Acc) (o : Src8) (s : State) : State :=
  let m := src8 o s
  m.2.setP (sub8 (s.acc r) m.1 false s.p).2

/-- `m <- Src16(f); D <- op(D, m)` with the flags of `op` (R144, R148). -/
def aluD (op : Word → Word → CCR → Word × CCR) (o : Src16) (s : State) : State :=
  let m := src16 o s
  let v := op s.d m.1 s.p
  (m.2.setD v.1).setP v.2

/-- `Sub8(0x00, m, 0)` (R154). -/
def neg8 (m : Byte) (p : CCR) : Byte × CCR := sub8 0x00 m false p

/-- `v <- m + 1; NZ8(v); V <- Vinc(m)` (R156). -/
def inc8 (m : Byte) (s : State) : Byte × State :=
  let v := m + 1
  let o := unknownV (m == 0x7F) s
  (v, o.2.setP { s.p.nz8 v with v := o.1 })

/-- `v <- m - 1; NZ8(v); V <- Vdec(m)` (R158). -/
def dec8 (m : Byte) (s : State) : Byte × State :=
  let v := m - 1
  let o := unknownV (m == 0x80) s
  (v, o.2.setP { s.p.nz8 v with v := o.1 })

/-- N <- 0, Z <- 1, V <- 0, C <- 0 (R164). -/
def CCR.cleared (p : CCR) : CCR := { p with n := false, z := true, v := false, c := false }

/-- NZ8(m), V <- 0, C <- 0 (R166). -/
def CCR.tested (p : CCR) (m : Byte) : CCR := { p.nz8 m with v := false, c := false }

/-- DAA on A, with a drawn V (R152). -/
def decimalAdjust (s : State) : State :=
  let o := drawBit s
  let v := daa8 s.a o.1 s.p
  (o.2.setA v.1).setP v.2

/-- X <- v; Z <- (X = 0) (R162, R163). -/
def countX (v : Word) (s : State) : State := (s.setX v).setP { s.p with z := v == 0 }

/-! ## Meanings -/

/-- ABA: A <- A + B (R140). -/
def execAba (s : State) : Result := .next ((s.setA (add8 s.a s.b false s.p).1).setP (add8 s.a s.b false s.p).2)

/-- ABX: X <- X + B, B unsigned, no flag (R141). -/
def execAbx (s : State) : Result := .next (s.setX (s.x + zext16 s.b))

/-- ADCA: add with carry to A (R142). -/
def execAdca (o : Src8) (s : State) : Result := .next (aluAcc .A (fun r m p => add8 r m p.c p) o s)

/-- ADCB: add with carry to B (R142). -/
def execAdcb (o : Src8) (s : State) : Result := .next (aluAcc .B (fun r m p => add8 r m p.c p) o s)

/-- ADDA: add to A (R143). -/
def execAdda (o : Src8) (s : State) : Result := .next (aluAcc .A (fun r m p => add8 r m false p) o s)

/-- ADDB: add to B (R143). -/
def execAddb (o : Src8) (s : State) : Result := .next (aluAcc .B (fun r m p => add8 r m false p) o s)

/-- ADDD: add to the double accumulator (R144). -/
def execAddd (o : Src16) (s : State) : Result := .next (aluD add16 o s)

/-- SBA: A <- A - B (R145). -/
def execSba (s : State) : Result := .next ((s.setA (sub8 s.a s.b false s.p).1).setP (sub8 s.a s.b false s.p).2)

/-- SBCA: subtract with carry from A (R146). -/
def execSbca (o : Src8) (s : State) : Result := .next (aluAcc .A (fun r m p => sub8 r m p.c p) o s)

/-- SBCB: subtract with carry from B (R146). -/
def execSbcb (o : Src8) (s : State) : Result := .next (aluAcc .B (fun r m p => sub8 r m p.c p) o s)

/-- SUBA: subtract from A (R147). -/
def execSuba (o : Src8) (s : State) : Result := .next (aluAcc .A (fun r m p => sub8 r m false p) o s)

/-- SUBB: subtract from B (R147). -/
def execSubb (o : Src8) (s : State) : Result := .next (aluAcc .B (fun r m p => sub8 r m false p) o s)

/-- SUBD: subtract from the double accumulator (R148). -/
def execSubd (o : Src16) (s : State) : Result := .next (aluD sub16 o s)

/-- CBA: compare accumulators (R149). -/
def execCba (s : State) : Result := .next (s.setP (sub8 s.a s.b false s.p).2)

/-- CMPA: compare A (R150). -/
def execCmpa (o : Src8) (s : State) : Result := .next (compareAcc .A o s)

/-- CMPB: compare B (R150). -/
def execCmpb (o : Src8) (s : State) : Result := .next (compareAcc .B o s)

/-- CPX: compare index register, by CPX_MODEL (R151). -/
def execCpx (o : Src16) (s : State) : Result := .next ((src16 o s).2.setP (cpxFlags s.cfg.cpx s.x (src16 o s).1 s.p))

/-- DAA: decimal adjust accumulator A (R152). -/
def execDaa (s : State) : Result := .next (decimalAdjust s)

/-- MUL: D <- A * B (R153). -/
def execMul (s : State) : Result := .next ((s.setD (mul8 s.a s.b s.p).1).setP (mul8 s.a s.b s.p).2)

/-- NEG: negate memory (R154). -/
def execNeg (o : MemOp) (s : State) : Result := .next (modifyMem o (withFlags neg8) s)

/-- NEGA: negate A (R155). -/
def execNega (s : State) : Result := .next (modifyAcc .A (withFlags neg8) s)

/-- NEGB: negate B (R155). -/
def execNegb (s : State) : Result := .next (modifyAcc .B (withFlags neg8) s)

/-- INC: increment memory (R156). -/
def execInc (o : MemOp) (s : State) : Result := .next (modifyMem o inc8 s)

/-- INCA: increment A (R157). -/
def execInca (s : State) : Result := .next (modifyAcc .A inc8 s)

/-- INCB: increment B (R157). -/
def execIncb (s : State) : Result := .next (modifyAcc .B inc8 s)

/-- DEC: decrement memory (R158). -/
def execDec (o : MemOp) (s : State) : Result := .next (modifyMem o dec8 s)

/-- DECA: decrement A (R159). -/
def execDeca (s : State) : Result := .next (modifyAcc .A dec8 s)

/-- DECB: decrement B (R159). -/
def execDecb (s : State) : Result := .next (modifyAcc .B dec8 s)

/-- INS: S <- S + 1, no flag (R160). -/
def execIns (s : State) : Result := .next (s.setSP (s.sp + 1))

/-- DES: S <- S - 1, no flag (R161). -/
def execDes (s : State) : Result := .next (s.setSP (s.sp - 1))

/-- INX: X <- X + 1, Z only (R162). -/
def execInx (s : State) : Result := .next (countX (s.x + 1) s)

/-- DEX: X <- X - 1, Z only (R163). -/
def execDex (s : State) : Result := .next (countX (s.x - 1) s)

/-- CLR: clear memory: one write, no read (R164). -/
def execClr (o : MemOp) (s : State) : Result := .next ((memWrite8 (ea o.mode s) 0x00 s).setP s.p.cleared)

/-- CLRA: clear A (R165). -/
def execClra (s : State) : Result := .next ((s.setAcc .A 0x00).setP s.p.cleared)

/-- CLRB: clear B (R165). -/
def execClrb (s : State) : Result := .next ((s.setAcc .B 0x00).setP s.p.cleared)

/-- TST: test memory (R166). -/
def execTst (o : MemOp) (s : State) : Result := .next ((memRead8 (ea o.mode s) s).2.setP (s.p.tested (memRead8 (ea o.mode s) s).1))

/-- TSTA: test A (R167). -/
def execTsta (s : State) : Result := .next (s.setP (s.p.tested (s.acc .A)))

/-- TSTB: test B (R167). -/
def execTstb (s : State) : Result := .next (s.setP (s.p.tested (s.acc .B)))

end Sys2Proof.Machine
end

