-- ==== Sys2Proof/Machine/BranchJump.lean ====
section
/-!
DEFINITION. Branches, jumps and subroutines (44_branch_jump.md R209 to R231).
Each instruction has a meaning of its own, over the shared operations; an instruction's bytes have been fetched and
PC is PCnext (assumption log 11). No instruction can fail (60_exceptions.md R300): every meaning answers a next state.
-/

namespace Sys2Proof.Machine

/-! ## Shared operations -/

/-- The common law of the relative branches: PC takes the target if the condition holds, and stays PCnext if not (R209). -/
def branchIf (cond : Bool) (rel : Byte) (s : State) : State :=
  if cond then s.setPC (relTarget rel s) else s

/-- A subroutine call: the return address PCnext is pushed, and PC takes the target computed before the push (R228, R230). -/
def callSubroutine (target : Word) (s : State) : State := (push16 s.pc s).setPC target

/-- `PC <- Pull16()` (R231). -/
def returnFromSubroutine (s : State) : State :=
  let v := pull16 s
  v.2.setPC v.1

/-! ## Meanings -/

/-- BRA: branch always (R210). -/
def execBra (rel : Byte) (s : State) : Result := .next (branchIf true rel s)

/-- BRN: branch never; the offset byte has been fetched and is ignored (R211). -/
def execBrn (rel : Byte) (s : State) : Result := .next (branchIf false rel s)

/-- BCC: branch if C = 0 (R212). -/
def execBcc (rel : Byte) (s : State) : Result := .next (branchIf (!s.p.c) rel s)

/-- BCS: branch if C = 1 (R213). -/
def execBcs (rel : Byte) (s : State) : Result := .next (branchIf s.p.c rel s)

/-- BEQ: branch if Z = 1 (R214). -/
def execBeq (rel : Byte) (s : State) : Result := .next (branchIf s.p.z rel s)

/-- BNE: branch if Z = 0 (R215). -/
def execBne (rel : Byte) (s : State) : Result := .next (branchIf (!s.p.z) rel s)

/-- BMI: branch if N = 1 (R216). -/
def execBmi (rel : Byte) (s : State) : Result := .next (branchIf s.p.n rel s)

/-- BPL: branch if N = 0 (R217). -/
def execBpl (rel : Byte) (s : State) : Result := .next (branchIf (!s.p.n) rel s)

/-- BVC: branch if V = 0 (R218). -/
def execBvc (rel : Byte) (s : State) : Result := .next (branchIf (!s.p.v) rel s)

/-- BVS: branch if V = 1 (R219). -/
def execBvs (rel : Byte) (s : State) : Result := .next (branchIf s.p.v rel s)

/-- BHI: branch if (C or Z) = 0 (R220). -/
def execBhi (rel : Byte) (s : State) : Result := .next (branchIf (!(s.p.c || s.p.z)) rel s)

/-- BLS: branch if (C or Z) = 1 (R221). -/
def execBls (rel : Byte) (s : State) : Result := .next (branchIf (s.p.c || s.p.z) rel s)

/-- BGE: branch if (N xor V) = 0 (R222). -/
def execBge (rel : Byte) (s : State) : Result := .next (branchIf (!(s.p.n ^^ s.p.v)) rel s)

/-- BLT: branch if (N xor V) = 1 (R223). -/
def execBlt (rel : Byte) (s : State) : Result := .next (branchIf (s.p.n ^^ s.p.v) rel s)

/-- BGT: branch if (Z or (N xor V)) = 0 (R224). -/
def execBgt (rel : Byte) (s : State) : Result := .next (branchIf (!(s.p.z || (s.p.n ^^ s.p.v))) rel s)

/-- BLE: branch if (Z or (N xor V)) = 1; the printed "=0" is corrected by 90_conflicts.md C3 (R225). -/
def execBle (rel : Byte) (s : State) : Result := .next (branchIf (s.p.z || (s.p.n ^^ s.p.v)) rel s)

/-- BHS: branch if C = 0, a second name of BCC (R226). -/
def execBhs (rel : Byte) (s : State) : Result := .next (branchIf (!s.p.c) rel s)

/-- BLO: branch if C = 1, a second name of BCS (R227). -/
def execBlo (rel : Byte) (s : State) : Result := .next (branchIf s.p.c rel s)

/-- BSR: branch to subroutine (R228). -/
def execBsr (rel : Byte) (s : State) : Result := .next (callSubroutine (relTarget rel s) s)

/-- JMP: jump to the effective address, which is not read (R229). -/
def execJmp (o : MemOp) (s : State) : Result := .next (s.setPC (ea o.mode s))

/-- JSR: jump to subroutine (R230). -/
def execJsr (o : MemOp) (s : State) : Result := .next (callSubroutine (ea o.mode s) s)

/-- RTS: return from subroutine (R231). -/
def execRts (s : State) : Result := .next (returnFromSubroutine s)

end Sys2Proof.Machine
end

