-- ==== Sys2Proof/Machine/LoadStoreStack.lean ====
section
/-!
DEFINITION. Loads, stores, transfers and the stack (40_load_store_stack.md R110 to R127).
Each instruction has a meaning of its own, over the shared operations; an instruction's bytes have been fetched and
PC is PCnext (assumption log 11). No instruction can fail (60_exceptions.md R300): every meaning answers a next state.
-/

namespace Sys2Proof.Machine

/-! ## Shared operations -/

/-- `v <- Src8(f); r <- v; NZ8(v); V <- 0` (R110). -/
def loadAcc (r : Acc) (o : Src8) (s : State) : State :=
  let v := src8 o s
  (v.2.setAcc r v.1).setP (s.p.moved8 v.1)

/-- `v <- Src16(f)`, the value put where `put` says, `NZ16(v); V <- 0` (R111 to R113). -/
def load16 (put : State → Word → State) (o : Src16) (s : State) : State :=
  let v := src16 o s
  (put v.2 v.1).setP (s.p.moved16 v.1)

/-- `v <- r; Dst8(f, v); NZ8(v); V <- 0` (R114). -/
def storeAcc (r : Acc) (o : Mode) (s : State) : State :=
  (dst8 o (s.acc r) s).setP (s.p.moved8 (s.acc r))

/-- `Dst16(f, v); NZ16(v); V <- 0` (R115 to R117). -/
def store16 (v : Word) (o : Mode) (s : State) : State := (dst16 o v s).setP (s.p.moved16 v)

/-- `r <- Pull8()` (R125). -/
def pullAcc (r : Acc) (s : State) : State :=
  let v := pull8 s
  v.2.setAcc r v.1

/-- What TSX gives X: S, or S + 1 under `hw6800` (R120). -/
def tsxValue (c : StackConvention) (sp : Word) : Word :=
  match c with
  | .card => sp
  | .hw6800 => sp + 1

/-- What TXS gives S: X, or X - 1 under `hw6800` (R121). -/
def txsValue (c : StackConvention) (x : Word) : Word :=
  match c with
  | .card => x
  | .hw6800 => x - 1

/-- `X <- Pull16()` (R127). -/
def pullX (s : State) : State :=
  let v := pull16 s
  v.2.setX v.1

/-! ## Meanings -/

/-- LDAA: load accumulator A (R110). -/
def execLdaa (o : Src8) (s : State) : Result := .next (loadAcc .A o s)

/-- LDAB: load accumulator B (R110). -/
def execLdab (o : Src8) (s : State) : Result := .next (loadAcc .B o s)

/-- LDD: load double accumulator (R111). -/
def execLdd (o : Src16) (s : State) : Result := .next (load16 State.setD o s)

/-- LDS: load stack pointer (R112). -/
def execLds (o : Src16) (s : State) : Result := .next (load16 State.setSP o s)

/-- LDX: load index register; in IDX mode the address is computed from the old X (R113). -/
def execLdx (o : Src16) (s : State) : Result := .next (load16 State.setX o s)

/-- STAA: store accumulator A (R114). -/
def execStaa (o : Mode) (s : State) : Result := .next (storeAcc .A o s)

/-- STAB: store accumulator B (R114). -/
def execStab (o : Mode) (s : State) : Result := .next (storeAcc .B o s)

/-- STD: store double accumulator (R115). -/
def execStd (o : Mode) (s : State) : Result := .next (store16 s.d o s)

/-- STS: store stack pointer (R116). -/
def execSts (o : Mode) (s : State) : Result := .next (store16 s.sp o s)

/-- STX: store index register (R117). -/
def execStx (o : Mode) (s : State) : Result := .next (store16 s.x o s)

/-- TAB: transfer A to B (R118). -/
def execTab (s : State) : Result := .next ((s.setB s.a).setP (s.p.moved8 s.a))

/-- TBA: transfer B to A (R119). -/
def execTba (s : State) : Result := .next ((s.setA s.b).setP (s.p.moved8 s.b))

/-- TSX: transfer stack pointer to index register (R120). -/
def execTsx (s : State) : Result := .next (s.setX (tsxValue s.cfg.stack s.sp))

/-- TXS: transfer index register to stack pointer (R121). -/
def execTxs (s : State) : Result := .next (s.setSP (txsValue s.cfg.stack s.x))

/-- PSHA: push A (R122). -/
def execPsha (s : State) : Result := .next (push8 s.a s)

/-- PSHB: push B (R123). -/
def execPshb (s : State) : Result := .next (push8 s.b s)

/-- PSHX: push index register (R124). -/
def execPshx (s : State) : Result := .next (push16 s.x s)

/-- PULA: pull A (R125). -/
def execPula (s : State) : Result := .next (pullAcc .A s)

/-- PULB: pull B (R126). -/
def execPulb (s : State) : Result := .next (pullAcc .B s)

/-- PULX: pull index register (R127). -/
def execPulx (s : State) : Result := .next (pullX s)

end Sys2Proof.Machine
end

