-- ==== Sys2Proof/Machine/Logic.lean ====
section
/-!
DEFINITION. Logic operations (42_logic.md R180 to R185).
Each instruction has a meaning of its own, over the shared operations; an instruction's bytes have been fetched and
PC is PCnext (assumption log 11). No instruction can fail (60_exceptions.md R300): every meaning answers a next state.
-/

namespace Sys2Proof.Machine

/-! ## Shared operations -/

/-- `m <- Src8(f); r <- op(r, m); NZ8(r); V <- 0` (R180, R182, R183). -/
def logicAcc (r : Acc) (op : Byte → Byte → Byte) (o : Src8) (s : State) : State :=
  let m := src8 o s
  let v := op (s.acc r) m.1
  (m.2.setAcc r v).setP (s.p.moved8 v)

/-- `m <- Src8(f); v <- r and m; NZ8(v); V <- 0`, `v` discarded (R181). -/
def bitTest (r : Acc) (o : Src8) (s : State) : State :=
  let m := src8 o s
  m.2.setP (s.p.moved8 (s.acc r &&& m.1))

/-- `v <- not m; NZ8(v); V <- 0; C <- 1` (R184). -/
def com8 (m : Byte) (p : CCR) : Byte × CCR := (~~~m, { p.moved8 (~~~m) with c := true })

/-! ## Meanings -/

/-- ANDA: logical AND with A (R180). -/
def execAnda (o : Src8) (s : State) : Result := .next (logicAcc .A (fun r m => r &&& m) o s)

/-- ANDB: logical AND with B (R180). -/
def execAndb (o : Src8) (s : State) : Result := .next (logicAcc .B (fun r m => r &&& m) o s)

/-- BITA: bit test of A (R181). -/
def execBita (o : Src8) (s : State) : Result := .next (bitTest .A o s)

/-- BITB: bit test of B (R181). -/
def execBitb (o : Src8) (s : State) : Result := .next (bitTest .B o s)

/-- EORA: logical exclusive OR with A (R182). -/
def execEora (o : Src8) (s : State) : Result := .next (logicAcc .A (fun r m => r ^^^ m) o s)

/-- EORB: logical exclusive OR with B (R182). -/
def execEorb (o : Src8) (s : State) : Result := .next (logicAcc .B (fun r m => r ^^^ m) o s)

/-- ORAA: logical inclusive OR with A (R183). -/
def execOraa (o : Src8) (s : State) : Result := .next (logicAcc .A (fun r m => r ||| m) o s)

/-- ORAB: logical inclusive OR with B (R183). -/
def execOrab (o : Src8) (s : State) : Result := .next (logicAcc .B (fun r m => r ||| m) o s)

/-- COM: complement memory (R184). -/
def execCom (o : MemOp) (s : State) : Result := .next (modifyMem o (withFlags com8) s)

/-- COMA: complement A (R185). -/
def execComa (s : State) : Result := .next (modifyAcc .A (withFlags com8) s)

/-- COMB: complement B (R185). -/
def execComb (s : State) : Result := .next (modifyAcc .B (withFlags com8) s)

end Sys2Proof.Machine
end

