-- ==== Sys2Proof/Machine/ShiftRotate.lean ====
section
/-!
DEFINITION. Shifts and rotates by one bit (43_shift_rotate.md R189 to R201).
Each instruction has a meaning of its own, over the shared operations; an instruction's bytes have been fetched and
PC is PCnext (assumption log 11). No instruction can fail (60_exceptions.md R300): every meaning answers a next state.
-/

namespace Sys2Proof.Machine

/-! ## Shared operations -/

/-- ROL of a byte: C takes the old bit 7, the old C enters bit 0; V by V_UNKNOWN (R198). -/
def rol8 (m : Byte) (s : State) : Byte × State :=
  let v := rolByte m s.p.c
  let o := unknownV (v.getLsbD 7 ^^ m.getLsbD 7) s
  (v, o.2.setP { s.p.nz8 v with c := m.getLsbD 7, v := o.1 })

/-- ROR of a byte: C takes the old bit 0, the old C enters bit 7; V by V_UNKNOWN (R200). -/
def ror8 (m : Byte) (s : State) : Byte × State :=
  let v := rorByte m s.p.c
  let o := unknownV (v.getLsbD 7 ^^ m.getLsbD 0) s
  (v, o.2.setP { s.p.nz8 v with c := m.getLsbD 0, v := o.1 })

/-- A shift of D with its flags (R192, R197). -/
def shiftD (f : Word → CCR → Word × CCR) (s : State) : State :=
  let v := f s.d s.p
  (s.setD v.1).setP v.2

/-! ## Meanings -/

/-- ASL: arithmetic shift left of memory (R190). -/
def execAsl (o : MemOp) (s : State) : Result := .next (modifyMem o (withFlags asl8) s)

/-- ASLA: arithmetic shift left of A (R191). -/
def execAsla (s : State) : Result := .next (modifyAcc .A (withFlags asl8) s)

/-- ASLB: arithmetic shift left of B (R191). -/
def execAslb (s : State) : Result := .next (modifyAcc .B (withFlags asl8) s)

/-- ASLD: arithmetic shift left of D (R192). -/
def execAsld (s : State) : Result := .next (shiftD asl16 s)

/-- ASR: arithmetic shift right of memory (R193). -/
def execAsr (o : MemOp) (s : State) : Result := .next (modifyMem o (withFlags asr8) s)

/-- ASRA: arithmetic shift right of A (R194). -/
def execAsra (s : State) : Result := .next (modifyAcc .A (withFlags asr8) s)

/-- ASRB: arithmetic shift right of B (R194). -/
def execAsrb (s : State) : Result := .next (modifyAcc .B (withFlags asr8) s)

/-- LSR: logical shift right of memory (R195). -/
def execLsr (o : MemOp) (s : State) : Result := .next (modifyMem o (withFlags lsr8) s)

/-- LSRA: logical shift right of A (R196). -/
def execLsra (s : State) : Result := .next (modifyAcc .A (withFlags lsr8) s)

/-- LSRB: logical shift right of B (R196). -/
def execLsrb (s : State) : Result := .next (modifyAcc .B (withFlags lsr8) s)

/-- LSRD: logical shift right of D (R197). -/
def execLsrd (s : State) : Result := .next (shiftD lsr16 s)

/-- ROL: rotate left of memory (R198). -/
def execRol (o : MemOp) (s : State) : Result := .next (modifyMem o rol8 s)

/-- ROLA: rotate left of A (R199). -/
def execRola (s : State) : Result := .next (modifyAcc .A rol8 s)

/-- ROLB: rotate left of B (R199). -/
def execRolb (s : State) : Result := .next (modifyAcc .B rol8 s)

/-- ROR: rotate right of memory (R200). -/
def execRor (o : MemOp) (s : State) : Result := .next (modifyMem o ror8 s)

/-- RORA: rotate right of A (R201). -/
def execRora (s : State) : Result := .next (modifyAcc .A ror8 s)

/-- RORB: rotate right of B (R201). -/
def execRorb (s : State) : Result := .next (modifyAcc .B ror8 s)

end Sys2Proof.Machine
end

