-- ==== Sys2Proof/Machine/System.lean ====
section
/-!
DEFINITION. Condition code and system instructions (45_ccr_system.md R240 to R251). There is one privilege level: each may
be executed by any code (60_exceptions.md R305).
Each instruction has a meaning of its own, over the shared operations; an instruction's bytes have been fetched and
PC is PCnext (assumption log 11). No instruction can fail (60_exceptions.md R300): every meaning answers a next state.
-/

namespace Sys2Proof.Machine



/-- CLC: C <- 0 (R240). -/
def execClc (s : State) : Result := .next (s.setP { s.p with c := false })

/-- SEC: C <- 1 (R241). -/
def execSec (s : State) : Result := .next (s.setP { s.p with c := true })

/-- CLV: V <- 0 (R242). -/
def execClv (s : State) : Result := .next (s.setP { s.p with v := false })

/-- SEV: V <- 1 (R243). -/
def execSev (s : State) : Result := .next (s.setP { s.p with v := true })

/-- CLI: I <- 0 (R244). -/
def execCli (s : State) : Result := .next (s.setI false)

/-- SEI: I <- 1 (R245). -/
def execSei (s : State) : Result := .next (s.setI true)

/-- TAP: P <- A, bits 5 to 0 (R246). -/
def execTap (s : State) : Result := .next (s.setP (CCR.ofByte s.a))

/-- TPA: A <- P, bits 7 and 6 as CCR_UNUSED_READ (R247). -/
def execTpa (s : State) : Result := .next (s.setA (pRead s))

/-- NOP: no operation (R248). -/
def execNop (s : State) : Result := .next (s)

/-- SWI: the software trap: the frame is stacked with the old I, I set, PC read from FFFA (R249). -/
def execSwi (s : State) : Result := .next (takeTrap vecSwi s)

/-- RTI: return from interrupt: P, B, A, X and PC are pulled (R250). -/
def execRti (s : State) : Result := .next (unstackRegs s)

/-- WAI: the frame is stacked and the processor waits; I is not changed (R251). -/
def execWai (s : State) : Result := .next ((stackRegs s).setWaiting true)

end Sys2Proof.Machine
end

