-- ==== Sys2Proof/Machine/Dispatch.lean ====
section
/-!
DEFINITION. One arm per instruction: the meaning of an instruction whose bytes have been fetched (30_encoding.md R83).
-/

namespace Sys2Proof.Machine

def exec (i : Instr) (s : State) : Host.Outcome State Fault Refusal :=
  match i with
  | .nop => Sys2Proof.Machine.execNop s
  | .lsrd => Sys2Proof.Machine.execLsrd s
  | .asld => Sys2Proof.Machine.execAsld s
  | .tap => Sys2Proof.Machine.execTap s
  | .tpa => Sys2Proof.Machine.execTpa s
  | .inx => Sys2Proof.Machine.execInx s
  | .dex => Sys2Proof.Machine.execDex s
  | .clv => Sys2Proof.Machine.execClv s
  | .sev => Sys2Proof.Machine.execSev s
  | .clc => Sys2Proof.Machine.execClc s
  | .sec => Sys2Proof.Machine.execSec s
  | .cli => Sys2Proof.Machine.execCli s
  | .sei => Sys2Proof.Machine.execSei s
  | .sba => Sys2Proof.Machine.execSba s
  | .cba => Sys2Proof.Machine.execCba s
  | .tab => Sys2Proof.Machine.execTab s
  | .tba => Sys2Proof.Machine.execTba s
  | .daa => Sys2Proof.Machine.execDaa s
  | .aba => Sys2Proof.Machine.execAba s
  | .bra rel => Sys2Proof.Machine.execBra rel s
  | .brn rel => Sys2Proof.Machine.execBrn rel s
  | .bhi rel => Sys2Proof.Machine.execBhi rel s
  | .bls rel => Sys2Proof.Machine.execBls rel s
  | .bcc rel => Sys2Proof.Machine.execBcc rel s
  | .bhs rel => Sys2Proof.Machine.execBhs rel s
  | .bcs rel => Sys2Proof.Machine.execBcs rel s
  | .blo rel => Sys2Proof.Machine.execBlo rel s
  | .bne rel => Sys2Proof.Machine.execBne rel s
  | .beq rel => Sys2Proof.Machine.execBeq rel s
  | .bvc rel => Sys2Proof.Machine.execBvc rel s
  | .bvs rel => Sys2Proof.Machine.execBvs rel s
  | .bpl rel => Sys2Proof.Machine.execBpl rel s
  | .bmi rel => Sys2Proof.Machine.execBmi rel s
  | .bge rel => Sys2Proof.Machine.execBge rel s
  | .blt rel => Sys2Proof.Machine.execBlt rel s
  | .bgt rel => Sys2Proof.Machine.execBgt rel s
  | .ble rel => Sys2Proof.Machine.execBle rel s
  | .tsx => Sys2Proof.Machine.execTsx s
  | .ins => Sys2Proof.Machine.execIns s
  | .pula => Sys2Proof.Machine.execPula s
  | .pulb => Sys2Proof.Machine.execPulb s
  | .des => Sys2Proof.Machine.execDes s
  | .txs => Sys2Proof.Machine.execTxs s
  | .psha => Sys2Proof.Machine.execPsha s
  | .pshb => Sys2Proof.Machine.execPshb s
  | .pulx => Sys2Proof.Machine.execPulx s
  | .rts => Sys2Proof.Machine.execRts s
  | .abx => Sys2Proof.Machine.execAbx s
  | .rti => Sys2Proof.Machine.execRti s
  | .pshx => Sys2Proof.Machine.execPshx s
  | .mul => Sys2Proof.Machine.execMul s
  | .wai => Sys2Proof.Machine.execWai s
  | .swi => Sys2Proof.Machine.execSwi s
  | .nega => Sys2Proof.Machine.execNega s
  | .coma => Sys2Proof.Machine.execComa s
  | .lsra => Sys2Proof.Machine.execLsra s
  | .rora => Sys2Proof.Machine.execRora s
  | .asra => Sys2Proof.Machine.execAsra s
  | .asla => Sys2Proof.Machine.execAsla s
  | .rola => Sys2Proof.Machine.execRola s
  | .deca => Sys2Proof.Machine.execDeca s
  | .inca => Sys2Proof.Machine.execInca s
  | .tsta => Sys2Proof.Machine.execTsta s
  | .clra => Sys2Proof.Machine.execClra s
  | .negb => Sys2Proof.Machine.execNegb s
  | .comb => Sys2Proof.Machine.execComb s
  | .lsrb => Sys2Proof.Machine.execLsrb s
  | .rorb => Sys2Proof.Machine.execRorb s
  | .asrb => Sys2Proof.Machine.execAsrb s
  | .aslb => Sys2Proof.Machine.execAslb s
  | .rolb => Sys2Proof.Machine.execRolb s
  | .decb => Sys2Proof.Machine.execDecb s
  | .incb => Sys2Proof.Machine.execIncb s
  | .tstb => Sys2Proof.Machine.execTstb s
  | .clrb => Sys2Proof.Machine.execClrb s
  | .neg o => Sys2Proof.Machine.execNeg o s
  | .com o => Sys2Proof.Machine.execCom o s
  | .lsr o => Sys2Proof.Machine.execLsr o s
  | .ror o => Sys2Proof.Machine.execRor o s
  | .asr o => Sys2Proof.Machine.execAsr o s
  | .asl o => Sys2Proof.Machine.execAsl o s
  | .rol o => Sys2Proof.Machine.execRol o s
  | .dec o => Sys2Proof.Machine.execDec o s
  | .inc o => Sys2Proof.Machine.execInc o s
  | .tst o => Sys2Proof.Machine.execTst o s
  | .jmp o => Sys2Proof.Machine.execJmp o s
  | .clr o => Sys2Proof.Machine.execClr o s
  | .suba o => Sys2Proof.Machine.execSuba o s
  | .cmpa o => Sys2Proof.Machine.execCmpa o s
  | .sbca o => Sys2Proof.Machine.execSbca o s
  | .subd o => Sys2Proof.Machine.execSubd o s
  | .anda o => Sys2Proof.Machine.execAnda o s
  | .bita o => Sys2Proof.Machine.execBita o s
  | .ldaa o => Sys2Proof.Machine.execLdaa o s
  | .eora o => Sys2Proof.Machine.execEora o s
  | .adca o => Sys2Proof.Machine.execAdca o s
  | .oraa o => Sys2Proof.Machine.execOraa o s
  | .adda o => Sys2Proof.Machine.execAdda o s
  | .cpx o => Sys2Proof.Machine.execCpx o s
  | .bsr rel => Sys2Proof.Machine.execBsr rel s
  | .lds o => Sys2Proof.Machine.execLds o s
  | .staa o => Sys2Proof.Machine.execStaa o s
  | .sts o => Sys2Proof.Machine.execSts o s
  | .jsr o => Sys2Proof.Machine.execJsr o s
  | .subb o => Sys2Proof.Machine.execSubb o s
  | .cmpb o => Sys2Proof.Machine.execCmpb o s
  | .sbcb o => Sys2Proof.Machine.execSbcb o s
  | .addd o => Sys2Proof.Machine.execAddd o s
  | .andb o => Sys2Proof.Machine.execAndb o s
  | .bitb o => Sys2Proof.Machine.execBitb o s
  | .ldab o => Sys2Proof.Machine.execLdab o s
  | .eorb o => Sys2Proof.Machine.execEorb o s
  | .adcb o => Sys2Proof.Machine.execAdcb o s
  | .orab o => Sys2Proof.Machine.execOrab o s
  | .addb o => Sys2Proof.Machine.execAddb o s
  | .ldd o => Sys2Proof.Machine.execLdd o s
  | .ldx o => Sys2Proof.Machine.execLdx o s
  | .stab o => Sys2Proof.Machine.execStab o s
  | .std o => Sys2Proof.Machine.execStd o s
  | .stx o => Sys2Proof.Machine.execStx o s

end Sys2Proof.Machine
end

