-- ==== Sys2Proof/WellFormed.lean ====
section
/-!
DEFINITION. Which instructions a part has. Every operand value an operand type can hold is legal (30_encoding.md R98:
there are no reserved fields), so the one check is that a `#` row is used only where HAS_EXT (R2, R97).
-/

namespace Sys2Proof

/-- The instruction exists on a part with this value of HAS_EXT (R2, R97, R226, R227). -/
def Instr.wellFormed (hasExt : Bool) (i : Instr) : Bool := hasExt || !i.extOnly

end Sys2Proof
end

