-- ==== Sys2Proof/Decode.lean ====
section
/-!
DEFINITION. Decoding bytes to instructions by the opcode map (30_encoding.md R94), and encoding by the mode
arithmetic of the card (R84, R85). Decoding is total: bytes that are no instruction are rejected by name (R97).
-/

namespace Sys2Proof

/-! ## The opcode map -/

/-- What an opcode byte decides (R80, R81): the instruction itself (INH), or the instruction that one operand byte
(IMM8, DIR, IDX, REL) or two operand bytes, high byte first (IMM16, EXT), complete. -/
inductive Shape where
  | inh (i : Instr)
  | byte (mk : Byte → Instr)
  | word (mk : Word → Instr)

/-- How many operand bytes follow the opcode (R82). -/
def Shape.operandBytes : Shape → Nat
  | .inh _ => 0
  | .byte _ => 1
  | .word _ => 2

/-- An 8-bit source operand in the mode that bits 5 and 4 of the opcode select: 0 IMM8, 1 DIR, 2 IDX, 3 EXT (R86). -/
def shapeSrc8 (mode : Nat) (mk : Src8 → Instr) : Option Shape :=
  match mode with
  | 0 => some (.byte fun n => mk (.imm n))
  | 1 => some (.byte fun n => mk (.mem (.dir n)))
  | 2 => some (.byte fun n => mk (.mem (.idx n)))
  | 3 => some (.word fun w => mk (.mem (.ext w)))
  | _ => none

/-- A 16-bit source operand: IMM16, DIR, IDX or EXT (R86, R87). -/
def shapeSrc16 (mode : Nat) (mk : Src16 → Instr) : Option Shape :=
  match mode with
  | 0 => some (.word fun w => mk (.imm w))
  | 1 => some (.byte fun n => mk (.mem (.dir n)))
  | 2 => some (.byte fun n => mk (.mem (.idx n)))
  | 3 => some (.word fun w => mk (.mem (.ext w)))
  | _ => none

/-- A store's destination: DIR, IDX or EXT; no store has an immediate form (R87, R97). -/
def shapeStore (mode : Nat) (mk : Mode → Instr) : Option Shape :=
  match mode with
  | 1 => some (.byte fun n => mk (.dir n))
  | 2 => some (.byte fun n => mk (.idx n))
  | 3 => some (.word fun w => mk (.ext w))
  | _ => none

/-- A one-operand memory form or a jump: IDX or EXT only (R84). -/
def shapeMem (mode : Nat) (mk : MemOp → Instr) : Option Shape :=
  match mode with
  | 2 => some (.byte fun n => mk (.idx n))
  | 3 => some (.word fun w => mk (.ext w))
  | _ => none

/-- Row 0x of the map (R94), by the low digit. -/
def shapeRow0 (lo : Nat) : Option Shape :=
  match lo with
  | 1 => some (.inh .nop)
  | 4 => some (.inh .lsrd)
  | 5 => some (.inh .asld)
  | 6 => some (.inh .tap)
  | 7 => some (.inh .tpa)
  | 8 => some (.inh .inx)
  | 9 => some (.inh .dex)
  | 10 => some (.inh .clv)
  | 11 => some (.inh .sev)
  | 12 => some (.inh .clc)
  | 13 => some (.inh .sec)
  | 14 => some (.inh .cli)
  | 15 => some (.inh .sei)
  | _ => none

/-- Row 1x of the map (R94), by the low digit. -/
def shapeRow1 (lo : Nat) : Option Shape :=
  match lo with
  | 0 => some (.inh .sba)
  | 1 => some (.inh .cba)
  | 6 => some (.inh .tab)
  | 7 => some (.inh .tba)
  | 9 => some (.inh .daa)
  | 11 => some (.inh .aba)
  | _ => none

/-- Row 2x of the map (R94), by the low digit. -/
def shapeRow2 (lo : Nat) : Option Shape :=
  match lo with
  | 0 => some (.byte .bra)
  | 1 => some (.byte .brn)
  | 2 => some (.byte .bhi)
  | 3 => some (.byte .bls)
  | 4 => some (.byte .bcc)
  | 5 => some (.byte .bcs)
  | 6 => some (.byte .bne)
  | 7 => some (.byte .beq)
  | 8 => some (.byte .bvc)
  | 9 => some (.byte .bvs)
  | 10 => some (.byte .bpl)
  | 11 => some (.byte .bmi)
  | 12 => some (.byte .bge)
  | 13 => some (.byte .blt)
  | 14 => some (.byte .bgt)
  | 15 => some (.byte .ble)
  | _ => none

/-- Row 3x of the map (R94), by the low digit. -/
def shapeRow3 (lo : Nat) : Option Shape :=
  match lo with
  | 0 => some (.inh .tsx)
  | 1 => some (.inh .ins)
  | 2 => some (.inh .pula)
  | 3 => some (.inh .pulb)
  | 4 => some (.inh .des)
  | 5 => some (.inh .txs)
  | 6 => some (.inh .psha)
  | 7 => some (.inh .pshb)
  | 8 => some (.inh .pulx)
  | 9 => some (.inh .rts)
  | 10 => some (.inh .abx)
  | 11 => some (.inh .rti)
  | 12 => some (.inh .pshx)
  | 13 => some (.inh .mul)
  | 14 => some (.inh .wai)
  | 15 => some (.inh .swi)
  | _ => none

/-- Row 4x of the map (R94), by the low digit. -/
def shapeRow4 (lo : Nat) : Option Shape :=
  match lo with
  | 0 => some (.inh .nega)
  | 3 => some (.inh .coma)
  | 4 => some (.inh .lsra)
  | 6 => some (.inh .rora)
  | 7 => some (.inh .asra)
  | 8 => some (.inh .asla)
  | 9 => some (.inh .rola)
  | 10 => some (.inh .deca)
  | 12 => some (.inh .inca)
  | 13 => some (.inh .tsta)
  | 15 => some (.inh .clra)
  | _ => none

/-- Row 5x of the map (R94), by the low digit. -/
def shapeRow5 (lo : Nat) : Option Shape :=
  match lo with
  | 0 => some (.inh .negb)
  | 3 => some (.inh .comb)
  | 4 => some (.inh .lsrb)
  | 6 => some (.inh .rorb)
  | 7 => some (.inh .asrb)
  | 8 => some (.inh .aslb)
  | 9 => some (.inh .rolb)
  | 10 => some (.inh .decb)
  | 12 => some (.inh .incb)
  | 13 => some (.inh .tstb)
  | 15 => some (.inh .clrb)
  | _ => none

/-- Rows 6x (mode 2, IDX) and 7x (mode 3, EXT) of the map (R94). -/
def shapeRowMem (mode lo : Nat) : Option Shape :=
  match lo with
  | 0 => shapeMem mode .neg
  | 3 => shapeMem mode .com
  | 4 => shapeMem mode .lsr
  | 6 => shapeMem mode .ror
  | 7 => shapeMem mode .asr
  | 8 => shapeMem mode .asl
  | 9 => shapeMem mode .rol
  | 10 => shapeMem mode .dec
  | 12 => shapeMem mode .inc
  | 13 => shapeMem mode .tst
  | 14 => shapeMem mode .jmp
  | 15 => shapeMem mode .clr
  | _ => none

/-- Rows 8x, 9x, Ax, Bx of the map, modes 0 to 3 (R94). 8D is BSR, 9D is unassigned. -/
def shapeRowA (mode lo : Nat) : Option Shape :=
  match lo with
  | 0 => shapeSrc8 mode .suba
  | 1 => shapeSrc8 mode .cmpa
  | 2 => shapeSrc8 mode .sbca
  | 3 => shapeSrc16 mode .subd
  | 4 => shapeSrc8 mode .anda
  | 5 => shapeSrc8 mode .bita
  | 6 => shapeSrc8 mode .ldaa
  | 7 => shapeStore mode .staa
  | 8 => shapeSrc8 mode .eora
  | 9 => shapeSrc8 mode .adca
  | 10 => shapeSrc8 mode .oraa
  | 11 => shapeSrc8 mode .adda
  | 12 => shapeSrc16 mode .cpx
  | 13 => if mode = 0 then some (.byte .bsr) else shapeMem mode .jsr
  | 14 => shapeSrc16 mode .lds
  | 15 => shapeStore mode .sts
  | _ => none

/-- Rows Cx, Dx, Ex, Fx of the map, modes 0 to 3 (R94). -/
def shapeRowB (mode lo : Nat) : Option Shape :=
  match lo with
  | 0 => shapeSrc8 mode .subb
  | 1 => shapeSrc8 mode .cmpb
  | 2 => shapeSrc8 mode .sbcb
  | 3 => shapeSrc16 mode .addd
  | 4 => shapeSrc8 mode .andb
  | 5 => shapeSrc8 mode .bitb
  | 6 => shapeSrc8 mode .ldab
  | 7 => shapeStore mode .stab
  | 8 => shapeSrc8 mode .eorb
  | 9 => shapeSrc8 mode .adcb
  | 10 => shapeSrc8 mode .orab
  | 11 => shapeSrc8 mode .addb
  | 12 => shapeSrc16 mode .ldd
  | 13 => shapeStore mode .std
  | 14 => shapeSrc16 mode .ldx
  | 15 => shapeStore mode .stx
  | _ => none

/-- The opcode map (R94), with every row of the card present. -/
def opcodeMap (op : Byte) : Option Shape :=
  let lo := op.toNat % 16
  match op.toNat / 16 with
  | 0 => shapeRow0 lo
  | 1 => shapeRow1 lo
  | 2 => shapeRow2 lo
  | 3 => shapeRow3 lo
  | 4 => shapeRow4 lo
  | 5 => shapeRow5 lo
  | 6 => shapeRowMem 2 lo
  | 7 => shapeRowMem 3 lo
  | 8 => shapeRowA 0 lo
  | 9 => shapeRowA 1 lo
  | 10 => shapeRowA 2 lo
  | 11 => shapeRowA 3 lo
  | 12 => shapeRowB 0 lo
  | 13 => shapeRowB 1 lo
  | 14 => shapeRowB 2 lo
  | 15 => shapeRowB 3 lo
  | _ => none

/-- The 22 opcode bytes of the `#` rows (R95). Bytes 24 and 25 are not among them (R2, R96). -/
def extOpcodes : List Byte :=
  [0x04, 0x05, 0x21, 0x38, 0x3A, 0x3C, 0x3D, 0x83, 0x93, 0xA3, 0xB3, 0xC3, 0xCC, 0xD3, 0xDC, 0xDD, 0xE3, 0xEC, 0xED, 0xF3, 0xFC, 0xFD]

/-- The opcode map of a part: without HAS_EXT the bytes of the `#` rows are unassigned (R2, R97). -/
def partMap (hasExt : Bool) (op : Byte) : Option Shape :=
  if !hasExt && extOpcodes.contains op then none else opcodeMap op

/-! ## Decoding -/

/-- What decoding a list of bytes gives. -/
inductive Decoded where
  /-- An instruction, and the bytes after it. -/
  | ok (i : Instr) (rest : List Byte)
  /-- The first byte is an unassigned opcode (R97). -/
  | unassigned (op : Byte)
  /-- The list ends before the instruction that starts with `op` does. -/
  | truncated (op : Byte)
  /-- There is no byte to decode. -/
  | empty
  deriving DecidableEq, Repr

/-- The instruction at the head of a list of bytes (R80, R83). -/
def decode (hasExt : Bool) : List Byte → Decoded
  | [] => .empty
  | op :: bs =>
    match partMap hasExt op with
    | none => .unassigned op
    | some (.inh i) => .ok i bs
    | some (.byte mk) =>
      match bs with
      | n :: rest => .ok (mk n) rest
      | [] => .truncated op
    | some (.word mk) =>
      match bs with
      | h :: l :: rest => .ok (mk (joinBytes h l)) rest
      | _ => .truncated op

/-! ## Encoding -/

/-- The opcode and operand bytes of a memory operand whose row has Extended opcode `e` (R84). -/
def encodeMode (e : Byte) : Mode → List Byte
  | .dir n => [e - 0x20, n]
  | .idx off => [e - 0x10, off]
  | .ext addr => [e, hiByte addr, loByte addr]

/-- The bytes of an instruction with an 8-bit source whose row has Extended opcode `e` (R84). -/
def encodeSrc8 (e : Byte) : Src8 → List Byte
  | .imm n => [e - 0x30, n]
  | .mem m => encodeMode e m

/-- The bytes of an instruction with a 16-bit source whose row has Extended opcode `e` (R84). -/
def encodeSrc16 (e : Byte) : Src16 → List Byte
  | .imm nn => [e - 0x30, hiByte nn, loByte nn]
  | .mem m => encodeMode e m

/-- The bytes of an instruction (R93): each arm has the card's Op of its row, the opcode of the Extended form where
the row has several modes, with TAB and COM as corrected by 90_conflicts.md C1 and C2. -/
def encode : Instr → List Byte
  | .nop => [0x01]
  | .lsrd => [0x04]
  | .asld => [0x05]
  | .tap => [0x06]
  | .tpa => [0x07]
  | .inx => [0x08]
  | .dex => [0x09]
  | .clv => [0x0A]
  | .sev => [0x0B]
  | .clc => [0x0C]
  | .sec => [0x0D]
  | .cli => [0x0E]
  | .sei => [0x0F]
  | .sba => [0x10]
  | .cba => [0x11]
  | .tab => [0x16]
  | .tba => [0x17]
  | .daa => [0x19]
  | .aba => [0x1B]
  | .bra rel => [0x20, rel]
  | .brn rel => [0x21, rel]
  | .bhi rel => [0x22, rel]
  | .bls rel => [0x23, rel]
  | .bcc rel => [0x24, rel]
  | .bhs rel => [0x24, rel]
  | .bcs rel => [0x25, rel]
  | .blo rel => [0x25, rel]
  | .bne rel => [0x26, rel]
  | .beq rel => [0x27, rel]
  | .bvc rel => [0x28, rel]
  | .bvs rel => [0x29, rel]
  | .bpl rel => [0x2A, rel]
  | .bmi rel => [0x2B, rel]
  | .bge rel => [0x2C, rel]
  | .blt rel => [0x2D, rel]
  | .bgt rel => [0x2E, rel]
  | .ble rel => [0x2F, rel]
  | .tsx => [0x30]
  | .ins => [0x31]
  | .pula => [0x32]
  | .pulb => [0x33]
  | .des => [0x34]
  | .txs => [0x35]
  | .psha => [0x36]
  | .pshb => [0x37]
  | .pulx => [0x38]
  | .rts => [0x39]
  | .abx => [0x3A]
  | .rti => [0x3B]
  | .pshx => [0x3C]
  | .mul => [0x3D]
  | .wai => [0x3E]
  | .swi => [0x3F]
  | .nega => [0x40]
  | .coma => [0x43]
  | .lsra => [0x44]
  | .rora => [0x46]
  | .asra => [0x47]
  | .asla => [0x48]
  | .rola => [0x49]
  | .deca => [0x4A]
  | .inca => [0x4C]
  | .tsta => [0x4D]
  | .clra => [0x4F]
  | .negb => [0x50]
  | .comb => [0x53]
  | .lsrb => [0x54]
  | .rorb => [0x56]
  | .asrb => [0x57]
  | .aslb => [0x58]
  | .rolb => [0x59]
  | .decb => [0x5A]
  | .incb => [0x5C]
  | .tstb => [0x5D]
  | .clrb => [0x5F]
  | .neg o => encodeMode 0x70 o.mode
  | .com o => encodeMode 0x73 o.mode
  | .lsr o => encodeMode 0x74 o.mode
  | .ror o => encodeMode 0x76 o.mode
  | .asr o => encodeMode 0x77 o.mode
  | .asl o => encodeMode 0x78 o.mode
  | .rol o => encodeMode 0x79 o.mode
  | .dec o => encodeMode 0x7A o.mode
  | .inc o => encodeMode 0x7C o.mode
  | .tst o => encodeMode 0x7D o.mode
  | .jmp o => encodeMode 0x7E o.mode
  | .clr o => encodeMode 0x7F o.mode
  | .suba o => encodeSrc8 0xB0 o
  | .cmpa o => encodeSrc8 0xB1 o
  | .sbca o => encodeSrc8 0xB2 o
  | .subd o => encodeSrc16 0xB3 o
  | .anda o => encodeSrc8 0xB4 o
  | .bita o => encodeSrc8 0xB5 o
  | .ldaa o => encodeSrc8 0xB6 o
  | .eora o => encodeSrc8 0xB8 o
  | .adca o => encodeSrc8 0xB9 o
  | .oraa o => encodeSrc8 0xBA o
  | .adda o => encodeSrc8 0xBB o
  | .cpx o => encodeSrc16 0xBC o
  | .bsr rel => [0x8D, rel]
  | .lds o => encodeSrc16 0xBE o
  | .staa o => encodeMode 0xB7 o
  | .sts o => encodeMode 0xBF o
  | .jsr o => encodeMode 0xBD o.mode
  | .subb o => encodeSrc8 0xF0 o
  | .cmpb o => encodeSrc8 0xF1 o
  | .sbcb o => encodeSrc8 0xF2 o
  | .addd o => encodeSrc16 0xF3 o
  | .andb o => encodeSrc8 0xF4 o
  | .bitb o => encodeSrc8 0xF5 o
  | .ldab o => encodeSrc8 0xF6 o
  | .eorb o => encodeSrc8 0xF8 o
  | .adcb o => encodeSrc8 0xF9 o
  | .orab o => encodeSrc8 0xFA o
  | .addb o => encodeSrc8 0xFB o
  | .ldd o => encodeSrc16 0xFC o
  | .ldx o => encodeSrc16 0xFE o
  | .stab o => encodeMode 0xF7 o
  | .std o => encodeMode 0xFD o
  | .stx o => encodeMode 0xFF o

/-- The length of an instruction in bytes (R82). -/
def Instr.length (i : Instr) : Nat := (encode i).length

/-! ## The host's reading of a table word -/

/-- The bytes of an instruction given as one number, bit 0 the least significant bit of the first byte, every bit from
`nbits` up being 0; three bytes, the longest instruction (R82). -/
def tableBytes (nbits w : Nat) : List Byte :=
  let v := w % 2 ^ nbits
  [BitVec.ofNat 8 v, BitVec.ofNat 8 (v / 256), BitVec.ofNat 8 (v / 65536)]

/-- The instruction the decoder reads from a word of spec/opcode_table.json, on a part that has every row. -/
def decodeTableWord (nbits w : Nat) : Option Instr :=
  match decode true (tableBytes nbits w) with
  | .ok i _ => some i
  | .unassigned _ => none
  | .truncated _ => none
  | .empty => none

end Sys2Proof
end

