-- ==== Sys2Proof/Machine/Fetch.lean ====
section
/-!
DEFINITION. Fetching an instruction (30_encoding.md R83): the opcode, then the operand bytes its format has, each at PC and
through the same read as data (20_memory.md R64). Also the placing of an instruction where the next step fetches it.
-/

namespace Sys2Proof.Machine

/-- `Fetch8()` (00_scope.md R12). -/
def fetch8 (s : State) : Byte × State :=
  let v := memRead8 s.pc s
  (v.1, v.2.setPC (s.pc + 1))

/-- `Fetch16()`, the first byte high (R12). -/
def fetch16 (s : State) : Word × State :=
  let h := fetch8 s
  let l := fetch8 h.2
  (joinBytes h.1 l.1, l.2)

/-- What a fetch gives: an instruction with the state in which PC is PCnext, or an unassigned opcode and its address. -/
inductive Fetched where
  | instr (i : Instr) (s : State)
  | unassigned (op : Byte) (addr : Word)
  deriving DecidableEq, Repr

/-- Steps 1 to 3 of R83: all bytes of an instruction are fetched, in ascending order, before any data access. -/
def fetchInstr (s : State) : Fetched :=
  let op := fetch8 s
  match partMap s.cfg.hasExt op.1 with
  | none => .unassigned op.1 s.pc
  | some (.inh i) => .instr i op.2
  | some (.byte mk) =>
    let n := fetch8 op.2
    .instr (mk n.1) n.2
  | some (.word mk) =>
    let w := fetch16 op.2
    .instr (mk w.1) w.2

/-- Bytes set directly in memory from an address on, as a harness does before a run (70_reset_and_hazards.md R365). -/
def placeBytes : List Byte → Word → Memory → Memory
  | [], _, m => m
  | v :: vs, addr, m => placeBytes vs (addr + 1) (m.write addr v)

/-- MEMMAP with an address made `ram` if a fetch there would not read memory. -/
def answering (addr : Word) (regions : List Region) : List Region :=
  match kindIn regions addr with
  | .ram => regions
  | .rom => regions
  | .io => { lo := addr, hi := addr, kind := .ram } :: regions
  | .unmapped => { lo := addr, hi := addr, kind := .ram } :: regions

/-- The instruction of a table word set at PC, in a state whose next step runs it: no coming move of the environment,
no reset, no waiting, and no interrupt accepted (assumption log 12). -/
def placeAtFetch (nbits w : Nat) (s : State) : State :=
  { s with
    mem := placeBytes (tableBytes nbits w) s.pc s.mem
    moves := []
    resetLine := false
    waiting := false
    accept := if (eligible s).isSome then false else s.accept
    cfg := { s.cfg with
      memmap := answering s.pc (answering (s.pc + 1) (answering (s.pc + 2) s.cfg.memmap)) } }

end Sys2Proof.Machine
end

