-- ==== Sys2Proof/Machine/Act.lean ====
section
/-!
DEFINITION. What the machine does in one step (60_exceptions.md R320), once the environment has moved and before.
-/

namespace Sys2Proof.Machine

/-- One step from a state whose inputs are up to date (R320): reset, an interrupt entry, waiting, or one instruction.
An unassigned opcode has no successor state (30_encoding.md R97). -/
def act (s : State) : Result :=
  match boundary s with
  | .reset => .next (resetSeq s)
  | .interrupt vec => .next (takeInterrupt vec s)
  | .wait => .next s
  | .run =>
    match fetchInstr s with
    | .instr i t => exec i t
    | .unassigned op addr => .refused (.unassignedOpcode op addr)

/-- The environment's move, then the machine's (R320). -/
def moveThenAct (s : State) : Result := act (envMove s)

end Sys2Proof.Machine
end

