-- ==== Sys2Proof/Machine/Step.lean ====
section
/-!
DEFINITION. One step of the machine (60_exceptions.md R320), and the placing of an instruction where it fetches.
-/

namespace Sys2Proof.Machine

/-- One step: the environment's move, then the machine's (R320). -/
def step (s : State) : Host.Outcome State Fault Refusal := moveThenAct s

/-- The state with an instruction of spec/opcode_table.json stored where the next step fetches (assumption log 12). -/
def State.withFetchWord (s : State) (nbits w : Nat) : State := placeAtFetch nbits w s

end Sys2Proof.Machine
end

