-- ==== Sys2Proof/Safety.lean ====
section
/-!
DEFINITION. The terms claims use: the invariant of the state, when an address answers from memory, what a safe run is; the spec's tables of what each instruction writes (10_state.md R32, R39;
20_memory.md R55); exact arithmetic over the integers that the flag rules are measured against; and the change of stack convention.
-/

namespace Sys2Proof.Machine

/-! ## States and runs -/

/-- The invariant of the state: memory is in canonical form. -/
abbrev State.Inv (s : State) : Prop := s.mem.wf

/-- A read of the address is answered by memory: it is `ram` or `rom` (20_memory.md R58). -/
def State.answers (s : State) (addr : Word) : Bool := s.kindAt addr == .ram || s.kindAt addr == .rom

/-- A run of `k` steps is safe: it reaches no unassigned opcode (30_encoding.md R97), the only stop there is. -/
def SafeRun (k : Nat) (s : State) : Prop := ∃ t, Sys2Proof.core.run k s = .next t

/-- The meanings of a list of instructions one after the other, without fetching them. -/
def execAll : List Instr → State → Result
  | [], s => .next s
  | i :: rest, s =>
    match exec i s with
    | .next t => execAll rest t
    | .fault r => .fault r
    | .refused r => .refused r

/-- The opcode bytes no row of the card expands to (R97): 37 on a part with every row, 59 on a part without the `#` rows. -/
def unassignedBytes (hasExt : Bool) : List Byte :=
  [0x00, 0x02, 0x03, 0x12, 0x13, 0x14, 0x15, 0x18, 0x1A, 0x1C, 0x1D, 0x1E, 0x1F, 0x41, 0x42, 0x45, 0x4B, 0x4E, 0x51,
    0x52, 0x55, 0x5B, 0x5E, 0x61, 0x62, 0x65, 0x6B, 0x71, 0x72, 0x75, 0x7B, 0x87, 0x8F, 0x9D, 0xC7, 0xCD, 0xCF] ++
  (if hasExt then [] else
    [0x04, 0x05, 0x21, 0x38, 0x3A, 0x3C, 0x3D, 0x83, 0x93, 0xA3, 0xB3, 0xC3, 0xD3, 0xE3, 0xF3, 0xCC, 0xDC, 0xEC, 0xFC,
      0xDD, 0xED, 0xFD])

/-! ## Exact arithmetic -/

/-- `r` and the flags `q` are the sum `x + y + cin` and its flags, from the flags `p` (R15, R139): C carries what the
byte does not hold, V says that the signed sum does not fit, H is the carry out of bit 3. -/
structure IsSum8 (x y : Byte) (cin : Bool) (p : CCR) (r : Byte) (q : CCR) : Prop where
  exact : r.toNat + 256 * q.c.toNat = x.toNat + y.toNat + cin.toNat
  half : q.h = decide (16 ≤ x.toNat % 16 + y.toNat % 16 + cin.toNat)
  overflow : q.v = decide (r.toInt ≠ x.toInt + y.toInt + cin.toNat)
  negative : q.n = decide (r.toInt < 0)
  zero : q.z = decide (r.toNat = 0)
  mask : q.i = p.i

/-- `r` and the flags `q` are the difference `x - y - bin` and its flags, from the flags `p` (R15, R139): C is the
borrow, V says that the signed difference does not fit, H is not written. -/
structure IsDiff8 (x y : Byte) (bin : Bool) (p : CCR) (r : Byte) (q : CCR) : Prop where
  exact : r.toNat + y.toNat + bin.toNat = x.toNat + 256 * q.c.toNat
  overflow : q.v = decide (r.toInt ≠ x.toInt - y.toInt - bin.toNat)
  negative : q.n = decide (r.toInt < 0)
  zero : q.z = decide (r.toNat = 0)
  half : q.h = p.h
  mask : q.i = p.i

/-- The 16-bit sum and its flags (R15). -/
structure IsSum16 (x y : Word) (p : CCR) (r : Word) (q : CCR) : Prop where
  exact : r.toNat + 65536 * q.c.toNat = x.toNat + y.toNat
  overflow : q.v = decide (r.toInt ≠ x.toInt + y.toInt)
  negative : q.n = decide (r.toInt < 0)
  zero : q.z = decide (r.toNat = 0)
  half : q.h = p.h
  mask : q.i = p.i

/-- The 16-bit difference and its flags (R15). -/
structure IsDiff16 (x y : Word) (p : CCR) (r : Word) (q : CCR) : Prop where
  exact : r.toNat + y.toNat = x.toNat + 65536 * q.c.toNat
  overflow : q.v = decide (r.toInt ≠ x.toInt - y.toInt)
  negative : q.n = decide (r.toInt < 0)
  zero : q.z = decide (r.toNat = 0)
  half : q.h = p.h
  mask : q.i = p.i

/-- The flags of a byte moved or combined bit by bit: N and Z are the byte's, V is 0, H, I and C as they were (R110, R180). -/
structure IsMoved8 (v : Byte) (p q : CCR) : Prop where
  negative : q.n = decide (v.toInt < 0)
  zero : q.z = decide (v.toNat = 0)
  overflow : q.v = false
  half : q.h = p.h
  mask : q.i = p.i
  carry : q.c = p.c

/-- The same over 16 bits (R111). -/
structure IsMoved16 (v : Word) (p q : CCR) : Prop where
  negative : q.n = decide (v.toInt < 0)
  zero : q.z = decide (v.toNat = 0)
  overflow : q.v = false
  half : q.h = p.h
  mask : q.i = p.i
  carry : q.c = p.c

/-- N and Z are the result's, H and I as they were: what every shift, rotate, increment and decrement has (R189, R156). -/
structure IsCounted8 (r : Byte) (p q : CCR) : Prop where
  negative : q.n = decide (r.toInt < 0)
  zero : q.z = decide (r.toNat = 0)
  half : q.h = p.h
  mask : q.i = p.i

/-- The same over 16 bits (R192). -/
structure IsCounted16 (r : Word) (p q : CCR) : Prop where
  negative : q.n = decide (r.toInt < 0)
  zero : q.z = decide (r.toNat = 0)
  half : q.h = p.h
  mask : q.i = p.i

/-- V where the card says "unknown" (R33): the next free bit, counted, under V_UNKNOWN = draw; else the `m6800` value. -/
def OpenV (s : State) (m6800 : Bool) (v : Bool) (draws : Nat) : Prop :=
  match s.cfg.vUnknown with
  | .draw => v = Config.freeBit s.draws ∧ draws = s.draws + 1
  | .m6800 => v = m6800 ∧ draws = s.draws

/-! ## The flags each instruction writes (R31, R32) -/

/-- The five symbols of the card's HINZVC column (R31). -/
inductive FlagEffect where
  /-- `-`, unaffected. -/
  | same
  /-- `*`, affected. -/
  | computed
  /-- `0`, reset. -/
  | zero
  /-- `1`, set. -/
  | one
  /-- `?`, unknown. -/
  | unknown
  deriving DecidableEq, Repr

/-- A row of the HINZVC column. -/
structure FlagRow where
  h : FlagEffect
  i : FlagEffect
  n : FlagEffect
  z : FlagEffect
  v : FlagEffect
  c : FlagEffect
  deriving DecidableEq, Repr

/-- The flag before and after agree with the symbol: unaffected, reset and set say which value it has; affected and unknown do not. -/
def FlagEffect.holds (e : FlagEffect) (before after : Bool) : Prop :=
  match e with
  | .same => after = before
  | .zero => after = false
  | .one => after = true
  | .computed => True
  | .unknown => True

/-- The flags before and after agree with the row. -/
def FlagRow.holds (r : FlagRow) (p q : CCR) : Prop :=
  r.h.holds p.h q.h ∧ r.i.holds p.i q.i ∧ r.n.holds p.n q.n ∧ r.z.holds p.z q.z ∧ r.v.holds p.v q.v ∧ r.c.holds p.c q.c

/-- `******` (R32). -/
def rowTap : FlagRow := ⟨.computed, .computed, .computed, .computed, .computed, .computed⟩
/-- `*-****` (R32). -/
def rowAdd : FlagRow := ⟨.computed, .same, .computed, .computed, .computed, .computed⟩
/-- `-*----` (R32). -/
def rowWai : FlagRow := ⟨.same, .computed, .same, .same, .same, .same⟩
/-- `--****` (R32). -/
def rowArith : FlagRow := ⟨.same, .same, .computed, .computed, .computed, .computed⟩
/-- `--**0-` (R32). -/
def rowMove : FlagRow := ⟨.same, .same, .computed, .computed, .zero, .same⟩
/-- `--**00` (R32). -/
def rowTest : FlagRow := ⟨.same, .same, .computed, .computed, .zero, .zero⟩
/-- `--**01` (R32). -/
def rowComplement : FlagRow := ⟨.same, .same, .computed, .computed, .zero, .one⟩
/-- `--**?*` (R32). -/
def rowRotate : FlagRow := ⟨.same, .same, .computed, .computed, .unknown, .computed⟩
/-- `--**?-` (R32). -/
def rowCount : FlagRow := ⟨.same, .same, .computed, .computed, .unknown, .same⟩
/-- `---*--` (R32). -/
def rowIndex : FlagRow := ⟨.same, .same, .same, .computed, .same, .same⟩
/-- `-----*` (R32). -/
def rowMultiply : FlagRow := ⟨.same, .same, .same, .same, .same, .computed⟩
/-- `------` (R32). -/
def rowNone : FlagRow := ⟨.same, .same, .same, .same, .same, .same⟩
/-- `-----0` (R32). -/
def rowClc : FlagRow := ⟨.same, .same, .same, .same, .same, .zero⟩
/-- `-----1` (R32). -/
def rowSec : FlagRow := ⟨.same, .same, .same, .same, .same, .one⟩
/-- `----0-` (R32). -/
def rowClv : FlagRow := ⟨.same, .same, .same, .same, .zero, .same⟩
/-- `----1-` (R32). -/
def rowSev : FlagRow := ⟨.same, .same, .same, .same, .one, .same⟩
/-- `--0***` (R32). -/
def rowShiftRight : FlagRow := ⟨.same, .same, .zero, .computed, .computed, .computed⟩
/-- `--0100` (R32). -/
def rowClear : FlagRow := ⟨.same, .same, .zero, .one, .zero, .zero⟩
/-- `-0----` (R32). -/
def rowCli : FlagRow := ⟨.same, .zero, .same, .same, .same, .same⟩
/-- `-1----` (R32). -/
def rowSei : FlagRow := ⟨.same, .one, .same, .same, .same, .same⟩
/-- `??????` (R32). -/
def rowRti : FlagRow := ⟨.unknown, .unknown, .unknown, .unknown, .unknown, .unknown⟩

/-- The HINZVC column of the card (R32). -/
def flagRow : Instr → FlagRow
  | .nop => rowNone
  | .lsrd => rowShiftRight
  | .asld => rowArith
  | .tap => rowTap
  | .tpa => rowNone
  | .inx => rowIndex
  | .dex => rowIndex
  | .clv => rowClv
  | .sev => rowSev
  | .clc => rowClc
  | .sec => rowSec
  | .cli => rowCli
  | .sei => rowSei
  | .sba => rowArith
  | .cba => rowArith
  | .tab => rowMove
  | .tba => rowMove
  | .daa => rowArith
  | .aba => rowAdd
  | .bra _ => rowNone
  | .brn _ => rowNone
  | .bhi _ => rowNone
  | .bls _ => rowNone
  | .bcc _ => rowNone
  | .bhs _ => rowNone
  | .bcs _ => rowNone
  | .blo _ => rowNone
  | .bne _ => rowNone
  | .beq _ => rowNone
  | .bvc _ => rowNone
  | .bvs _ => rowNone
  | .bpl _ => rowNone
  | .bmi _ => rowNone
  | .bge _ => rowNone
  | .blt _ => rowNone
  | .bgt _ => rowNone
  | .ble _ => rowNone
  | .tsx => rowNone
  | .ins => rowNone
  | .pula => rowNone
  | .pulb => rowNone
  | .des => rowNone
  | .txs => rowNone
  | .psha => rowNone
  | .pshb => rowNone
  | .pulx => rowNone
  | .rts => rowNone
  | .abx => rowNone
  | .rti => rowRti
  | .pshx => rowNone
  | .mul => rowMultiply
  | .wai => rowWai
  | .swi => rowSei
  | .nega => rowArith
  | .coma => rowComplement
  | .lsra => rowShiftRight
  | .rora => rowRotate
  | .asra => rowArith
  | .asla => rowArith
  | .rola => rowRotate
  | .deca => rowCount
  | .inca => rowCount
  | .tsta => rowTest
  | .clra => rowClear
  | .negb => rowArith
  | .comb => rowComplement
  | .lsrb => rowShiftRight
  | .rorb => rowRotate
  | .asrb => rowArith
  | .aslb => rowArith
  | .rolb => rowRotate
  | .decb => rowCount
  | .incb => rowCount
  | .tstb => rowTest
  | .clrb => rowClear
  | .neg _ => rowArith
  | .com _ => rowComplement
  | .lsr _ => rowShiftRight
  | .ror _ => rowRotate
  | .asr _ => rowArith
  | .asl _ => rowArith
  | .rol _ => rowRotate
  | .dec _ => rowCount
  | .inc _ => rowCount
  | .tst _ => rowTest
  | .jmp _ => rowNone
  | .clr _ => rowClear
  | .suba _ => rowArith
  | .cmpa _ => rowArith
  | .sbca _ => rowArith
  | .subd _ => rowArith
  | .anda _ => rowMove
  | .bita _ => rowMove
  | .ldaa _ => rowMove
  | .eora _ => rowMove
  | .adca _ => rowAdd
  | .oraa _ => rowMove
  | .adda _ => rowAdd
  | .cpx _ => rowArith
  | .bsr _ => rowNone
  | .lds _ => rowMove
  | .staa _ => rowMove
  | .sts _ => rowMove
  | .jsr _ => rowNone
  | .subb _ => rowArith
  | .cmpb _ => rowArith
  | .sbcb _ => rowArith
  | .addd _ => rowArith
  | .andb _ => rowMove
  | .bitb _ => rowMove
  | .ldab _ => rowMove
  | .eorb _ => rowMove
  | .adcb _ => rowAdd
  | .orab _ => rowMove
  | .addb _ => rowAdd
  | .ldd _ => rowMove
  | .ldx _ => rowMove
  | .stab _ => rowMove
  | .std _ => rowMove
  | .stx _ => rowMove

/-! ## The registers each instruction writes (R39) -/

/-- Which registers an instruction writes; PC apart from fetching (R26, R39). -/
structure Writes where
  a : Bool := false
  b : Bool := false
  x : Bool := false
  sp : Bool := false
  pc : Bool := false
  deriving DecidableEq, Repr

/-- The table of R39, and for PC the list of R26. -/
def writes : Instr → Writes
  | .nop => {}
  | .lsrd => { a := true, b := true }
  | .asld => { a := true, b := true }
  | .tap => {}
  | .tpa => { a := true }
  | .inx => { x := true }
  | .dex => { x := true }
  | .clv => {}
  | .sev => {}
  | .clc => {}
  | .sec => {}
  | .cli => {}
  | .sei => {}
  | .sba => { a := true }
  | .cba => {}
  | .tab => { b := true }
  | .tba => { a := true }
  | .daa => { a := true }
  | .aba => { a := true }
  | .bra _ => { pc := true }
  | .brn _ => { pc := true }
  | .bhi _ => { pc := true }
  | .bls _ => { pc := true }
  | .bcc _ => { pc := true }
  | .bhs _ => { pc := true }
  | .bcs _ => { pc := true }
  | .blo _ => { pc := true }
  | .bne _ => { pc := true }
  | .beq _ => { pc := true }
  | .bvc _ => { pc := true }
  | .bvs _ => { pc := true }
  | .bpl _ => { pc := true }
  | .bmi _ => { pc := true }
  | .bge _ => { pc := true }
  | .blt _ => { pc := true }
  | .bgt _ => { pc := true }
  | .ble _ => { pc := true }
  | .tsx => { x := true }
  | .ins => { sp := true }
  | .pula => { a := true, sp := true }
  | .pulb => { b := true, sp := true }
  | .des => { sp := true }
  | .txs => { sp := true }
  | .psha => { sp := true }
  | .pshb => { sp := true }
  | .pulx => { x := true, sp := true }
  | .rts => { sp := true, pc := true }
  | .abx => { x := true }
  | .rti => { a := true, b := true, x := true, sp := true, pc := true }
  | .pshx => { sp := true }
  | .mul => { a := true, b := true }
  | .wai => { sp := true }
  | .swi => { sp := true, pc := true }
  | .nega => { a := true }
  | .coma => { a := true }
  | .lsra => { a := true }
  | .rora => { a := true }
  | .asra => { a := true }
  | .asla => { a := true }
  | .rola => { a := true }
  | .deca => { a := true }
  | .inca => { a := true }
  | .tsta => {}
  | .clra => { a := true }
  | .negb => { b := true }
  | .comb => { b := true }
  | .lsrb => { b := true }
  | .rorb => { b := true }
  | .asrb => { b := true }
  | .aslb => { b := true }
  | .rolb => { b := true }
  | .decb => { b := true }
  | .incb => { b := true }
  | .tstb => {}
  | .clrb => { b := true }
  | .neg _ => {}
  | .com _ => {}
  | .lsr _ => {}
  | .ror _ => {}
  | .asr _ => {}
  | .asl _ => {}
  | .rol _ => {}
  | .dec _ => {}
  | .inc _ => {}
  | .tst _ => {}
  | .jmp _ => { pc := true }
  | .clr _ => {}
  | .suba _ => { a := true }
  | .cmpa _ => {}
  | .sbca _ => { a := true }
  | .subd _ => { a := true, b := true }
  | .anda _ => { a := true }
  | .bita _ => {}
  | .ldaa _ => { a := true }
  | .eora _ => { a := true }
  | .adca _ => { a := true }
  | .oraa _ => { a := true }
  | .adda _ => { a := true }
  | .cpx _ => {}
  | .bsr _ => { sp := true, pc := true }
  | .lds _ => { sp := true }
  | .staa _ => {}
  | .sts _ => {}
  | .jsr _ => { sp := true, pc := true }
  | .subb _ => { b := true }
  | .cmpb _ => {}
  | .sbcb _ => { b := true }
  | .addd _ => { a := true, b := true }
  | .andb _ => { b := true }
  | .bitb _ => {}
  | .ldab _ => { b := true }
  | .eorb _ => { b := true }
  | .adcb _ => { b := true }
  | .orab _ => { b := true }
  | .addb _ => { b := true }
  | .ldd _ => { a := true, b := true }
  | .ldx _ => { x := true }
  | .stab _ => {}
  | .std _ => {}
  | .stx _ => {}

/-! ## The bytes each instruction stores to (R39, R55) -/

/-- The addresses that `n` pushes store to, from a state (R13). -/
def pushed (n : Nat) (s : State) : List Word :=
  (List.range n).map fun k => pushAddr s.cfg.stack (s.sp - BitVec.ofNat 16 k)

/-- The addresses an instruction stores to when it runs in a state with PC = PCnext: the Mem line of R39, the addresses
computed as the instruction computes them. -/
def storedAt (i : Instr) (s : State) : List Word :=
  match i with
  | .nop => []
  | .lsrd => []
  | .asld => []
  | .tap => []
  | .tpa => []
  | .inx => []
  | .dex => []
  | .clv => []
  | .sev => []
  | .clc => []
  | .sec => []
  | .cli => []
  | .sei => []
  | .sba => []
  | .cba => []
  | .tab => []
  | .tba => []
  | .daa => []
  | .aba => []
  | .bra _ => []
  | .brn _ => []
  | .bhi _ => []
  | .bls _ => []
  | .bcc _ => []
  | .bhs _ => []
  | .bcs _ => []
  | .blo _ => []
  | .bne _ => []
  | .beq _ => []
  | .bvc _ => []
  | .bvs _ => []
  | .bpl _ => []
  | .bmi _ => []
  | .bge _ => []
  | .blt _ => []
  | .bgt _ => []
  | .ble _ => []
  | .tsx => []
  | .ins => []
  | .pula => []
  | .pulb => []
  | .des => []
  | .txs => []
  | .psha => pushed 1 s
  | .pshb => pushed 1 s
  | .pulx => []
  | .rts => []
  | .abx => []
  | .rti => []
  | .pshx => pushed 2 s
  | .mul => []
  | .wai => pushed 7 s
  | .swi => pushed 7 s
  | .nega => []
  | .coma => []
  | .lsra => []
  | .rora => []
  | .asra => []
  | .asla => []
  | .rola => []
  | .deca => []
  | .inca => []
  | .tsta => []
  | .clra => []
  | .negb => []
  | .comb => []
  | .lsrb => []
  | .rorb => []
  | .asrb => []
  | .aslb => []
  | .rolb => []
  | .decb => []
  | .incb => []
  | .tstb => []
  | .clrb => []
  | .neg o => [ea o.mode s]
  | .com o => [ea o.mode s]
  | .lsr o => [ea o.mode s]
  | .ror o => [ea o.mode s]
  | .asr o => [ea o.mode s]
  | .asl o => [ea o.mode s]
  | .rol o => [ea o.mode s]
  | .dec o => [ea o.mode s]
  | .inc o => [ea o.mode s]
  | .tst _ => []
  | .jmp _ => []
  | .clr o => [ea o.mode s]
  | .suba _ => []
  | .cmpa _ => []
  | .sbca _ => []
  | .subd _ => []
  | .anda _ => []
  | .bita _ => []
  | .ldaa _ => []
  | .eora _ => []
  | .adca _ => []
  | .oraa _ => []
  | .adda _ => []
  | .cpx _ => []
  | .bsr _ => pushed 2 s
  | .lds _ => []
  | .staa o => [ea o s]
  | .sts o => [ea o s, ea o s + 1]
  | .jsr _ => pushed 2 s
  | .subb _ => []
  | .cmpb _ => []
  | .sbcb _ => []
  | .addd _ => []
  | .andb _ => []
  | .bitb _ => []
  | .ldab _ => []
  | .eorb _ => []
  | .adcb _ => []
  | .orab _ => []
  | .addb _ => []
  | .ldd _ => []
  | .ldx _ => []
  | .stab o => [ea o s]
  | .std o => [ea o s, ea o s + 1]
  | .stx o => [ea o s, ea o s + 1]

/-! ## The register frame (R14) -/

/-- The `k`-th byte that stacking the registers of `u` pushes (R14). -/
def frameByte (u : State) : Nat → Byte
  | 0 => loByte u.pc
  | 1 => hiByte u.pc
  | 2 => loByte u.x
  | 3 => hiByte u.x
  | 4 => u.a
  | 5 => u.b
  | _ => pRead u

/-- Between `u` and `t` the frame of `u` has been stacked: S is seven lower, the seven bytes lie where seven pushes put
them (as far as these are `ram`), and every other byte of memory, A, B and X are as they were (R14, R304). -/
structure StacksFrame (u t : State) : Prop where
  sp : t.sp = u.sp - 7
  bytes : ∀ k, k < 7 → u.kindAt (pushAddr u.cfg.stack (u.sp - BitVec.ofNat 16 k)) = .ram →
    t.mem.read (pushAddr u.cfg.stack (u.sp - BitVec.ofNat 16 k)) = frameByte u k
  others : ∀ addr, addr ∉ pushed 7 u → t.mem.read addr = u.mem.read addr
  a : t.a = u.a
  b : t.b = u.b
  x : t.x = u.x

/-- `t` is in the handler of the vector `vec`: I is set and the other flags are those of `u`, and PC is the word that
memory holds at the vector, where memory answers there (R304, R306). -/
structure InHandler (vec : Word) (u t : State) : Prop where
  flags : t.p = { u.p with i := true }
  target : u.answers vec = true → u.answers (vec + 1) = true →
    t.pc = joinBytes (t.mem.read vec) (t.mem.read (vec + 1))

/-! ## Packed decimal (R152) -/

/-- Both digits of the byte are decimal. -/
def IsBcd (v : Byte) : Prop := v.toNat % 16 < 10 ∧ v.toNat / 16 < 10

/-- The number two packed decimal digits stand for. -/
def bcdValue (v : Byte) : Nat := 10 * (v.toNat / 16) + v.toNat % 16

/-! ## Stack conventions (R13) -/

/-- The same machine under the other stack convention, S one lower: `S_card = S_hw6800 + 1` (R13). -/
def State.toHw6800 (s : State) : State :=
  { s with sp := s.sp - 1, cfg := { s.cfg with stack := .hw6800 } }

/-- The same, of what an instruction answers. -/
def toHw6800 : Result → Result
  | .next t => .next t.toHw6800
  | .fault r => .fault r
  | .refused r => .refused r

/-- The same machine with the hardware interrupt line at another level. -/
def State.withIrq (f : Bool) (s : State) : State := { s with irqLine := f }

/-- The same, of what a step answers. -/
def withIrq (f : Bool) : Result → Result
  | .next t => .next (t.withIrq f)
  | .fault r => .fault r
  | .refused r => .refused r

end Sys2Proof.Machine
end

