-- ==== Sys2Proof/Certificates/Slice0/Obligations.lean ====
section
/-!
DEFINITION. The statements for the provers, each named for what it says. A docstring names the rules of spec/ a
statement formalises; the words it uses are those of Safety.lean.
-/

open Sys2Proof Sys2Proof.Machine

/-! ## Encoding -/

/-- Decoding the bytes of any instruction a part has, with any bytes after them, gives that instruction back, with
every operand, and leaves the bytes after it (R80, R93, R96). -/
def Obligations.DecodeReadsWhatEncodeWrites : Prop :=
  ∀ (hasExt : Bool) (i : Instr) (rest : List Byte), i.wellFormed hasExt = true →
    decode hasExt (encode i ++ rest) = .ok i.canonical rest

/-- Bytes that decode are the encoding of what they decode to: each byte sequence has one meaning (R80, R98). -/
def Obligations.DecodedBytesAreTheEncoding : Prop :=
  ∀ (hasExt : Bool) (bytes : List Byte) (i : Instr) (rest : List Byte), decode hasExt bytes = .ok i rest →
    encode i ++ rest = bytes ∧ i.wellFormed hasExt = true ∧ i.canonical = i

/-- The decoder rejects an opcode byte by name exactly when it is one of the 37 (or, without HAS_EXT, 59) bytes that
R97 lists. -/
def Obligations.RejectedOpcodesAreTheListedOnes : Prop :=
  ∀ (hasExt : Bool) (op : Byte) (rest : List Byte),
    decode hasExt (op :: rest) = .unassigned op ↔ op ∈ unassignedBytes hasExt

/-- A few words written out from the card: TAB is 16 and TBA 17, COM is 63 and 73, the two operand bytes come high first. -/
def Obligations.WordsFromTheCardDecode : Prop :=
  decode true [0x16] = .ok .tab [] ∧ decode true [0x17] = .ok .tba [] ∧
  decode true [0x63, 0x05] = .ok (.com (.idx 0x05)) [] ∧ decode true [0x73, 0x00, 0x70] = .ok (.com (.ext 0x0070)) [] ∧
  decode true [0x53] = .ok .comb [] ∧ decode true [0xCE, 0x12, 0x34] = .ok (.ldx (.imm 0x1234)) [] ∧
  decode true [0xD6, 0x20] = .ok (.ldab (.mem (.dir 0x20))) [] ∧ decode true [0x8D, 0xF0] = .ok (.bsr 0xF0) [] ∧
  decode false [0x3D] = .unassigned 0x3D ∧ decode true [0x9D, 0x00] = .unassigned 0x9D

/-- BHS and BLO are second names of BCC and BCS: the same bytes and the same behaviour (R96, R226, R227; that they are
constructors of their own is assumption log 10). -/
def Obligations.BhsAndBloAreBccAndBcs : Prop :=
  ∀ (rel : Byte) (s : State),
    encode (.bhs rel) = encode (.bcc rel) ∧ exec (.bhs rel) s = exec (.bcc rel) s ∧
    encode (.blo rel) = encode (.bcs rel) ∧ exec (.blo rel) s = exec (.bcs rel) s

/-! ## The step -/

/-- At a boundary where the processor runs, where memory answers at the bytes of the instruction and they decode to
`i`, the step is `i` executed with PC moved past its bytes (R83, R320; that the meaning starts there is assumption log 11). -/
def Obligations.StepRunsTheDecodedInstruction : Prop :=
  ∀ (s u : State) (i : Instr) (rest : List Byte), u = envMove s → boundary u = .run →
    (∀ k, k < i.length → u.answers (u.pc + BitVec.ofNat 16 k) = true) →
    decode u.cfg.hasExt [u.mem.read u.pc, u.mem.read (u.pc + 1), u.mem.read (u.pc + 2)] = .ok i rest →
    step s = exec i { u with pc := u.pc + BitVec.ofNat 16 i.length }

/-- Executing an unassigned opcode has no successor state, and the refusal names the byte fetched and its address (R97). -/
def Obligations.UnassignedOpcodeHasNoSuccessor : Prop :=
  ∀ (s u : State), u = envMove s → boundary u = .run → (fetch8 u).1 ∈ unassignedBytes u.cfg.hasExt →
    step s = .refused (.unassignedOpcode (fetch8 u).1 u.pc)

/-- No instruction can fail: each answers a next state, whatever the state and the operands; and nothing but an
unassigned opcode stops a step (R97, R300, R316). -/
def Obligations.OnlyUnassignedOpcodesStopAStep : Prop :=
  (∀ (i : Instr) (s : State), ∃ t, exec i s = .next t) ∧
  ∀ (s : State), (∃ t, step s = .next t) ∨
    ∃ op ∈ unassignedBytes s.cfg.hasExt, boundary (envMove s) = .run ∧
      step s = .refused (.unassignedOpcode op s.pc)

/-- What happens at a boundary: reset whenever the line is up, else NMI if pending, else IRQ if its line is up and I is
0, each if the environment lets it be accepted, else waiting, else the next instruction (R302, R310, R311; that this
permission is an input is assumption log 5). -/
def Obligations.BoundaryFollowsThePriorities : Prop :=
  ∀ (s : State),
    (boundary s = .reset ↔ s.resetLine = true) ∧
    (∀ vec, boundary s = .interrupt vec ↔ s.resetLine = false ∧ s.accept = true ∧
      ((s.nmiPending = true ∧ vec = 0xFFFC) ∨
        (s.nmiPending = false ∧ s.irqLine = true ∧ s.p.i = false ∧ vec = 0xFFF8))) ∧
    (boundary s = .wait ↔ s.resetLine = false ∧ s.waiting = true ∧
      (s.accept = true → s.nmiPending = false ∧ (s.irqLine = true → s.p.i = true))) ∧
    (boundary s = .run ↔ s.resetLine = false ∧ s.waiting = false ∧
      (s.accept = true → s.nmiPending = false ∧ (s.irqLine = true → s.p.i = true)))

/-- The environment's move before a step sets the lines and the choice, and latches an NMI request without ever
clearing one; it changes nothing else, and with no move left it changes nothing. A step leaves the inputs as the move set
them, and the parameters as they were (R7, R313, R323; the list of moves is the model's form, assumption log 4). -/
def Obligations.EnvironmentOwnsTheInputs : Prop :=
  ∀ (s : State),
    (s.moves = [] → envMove s = s) ∧
    (∀ m rest, s.moves = m :: rest →
      envMove s = { s with
        irqLine := m.irqLine
        resetLine := m.resetLine
        nmiPending := (s.nmiPending || m.nmi)
        accept := m.accept
        moves := rest }) ∧
    ∀ t, step s = .next t →
      t.cfg = s.cfg ∧ t.irqLine = (envMove s).irqLine ∧ t.resetLine = (envMove s).resetLine ∧
        t.accept = (envMove s).accept ∧ t.moves = (envMove s).moves

/-- A requested NMI stays pending until it is taken or reset clears it, and nothing but the environment requests one:
its move is that of EnvironmentOwnsTheInputs (R304, R313, R350). -/
def Obligations.NmiStaysPendingUntilTaken : Prop :=
  ∀ (s t u : State), u = envMove s → step s = .next t →
    (t.nmiPending = true ↔ u.nmiPending = true ∧ boundary u ≠ .interrupt 0xFFFC ∧ boundary u ≠ .reset)

/-! ## Interrupts, traps and reset -/

/-- An interrupt accepted when the processor does not wait stacks the frame and enters the handler; NMI entry clears
the pending request and IRQ entry does not touch it (R304, R316). -/
def Obligations.InterruptEntryStacksTheFrame : Prop :=
  ∀ (s u : State) (vec : Word), u = envMove s → boundary u = .interrupt vec → u.waiting = false →
    ∃ t, step s = .next t ∧ StacksFrame u t ∧ InHandler vec u t ∧ t.waiting = false ∧ t.nmiPending = false

/-- While the processor waits no instruction is run, and each of the three other cases of the boundary says what the step
does: with nothing accepted it changes nothing; a reset ends the wait and stores nothing; an accepted interrupt ends the
wait and enters its handler with the frame WAI stacked, storing nothing and keeping S, A, B and X (R311, R322, R350). -/
def Obligations.WaitingEndsByInterruptOrReset : Prop :=
  ∀ (s u : State), u = envMove s → u.waiting = true →
    boundary u ≠ .run ∧
    (boundary u = .wait → step s = .next u) ∧
    (boundary u = .reset → ∃ t, step s = .next t ∧ t.waiting = false ∧ t.nmiPending = false ∧ t.p.i = true ∧
      t.mem = u.mem) ∧
    ∀ vec, boundary u = .interrupt vec → ∃ t, step s = .next t ∧ InHandler vec u t ∧ t.waiting = false ∧
      t.nmiPending = false ∧ t.mem = u.mem ∧ t.sp = u.sp ∧ t.a = u.a ∧ t.b = u.b ∧ t.x = u.x

/-- The software trap: SWI stacks the frame, with the old I in it, sets I and enters through FFFA, whatever I is (R249, R301). -/
def Obligations.SwiTakesTheTrap : Prop :=
  ∀ (s : State), ∃ t, exec .swi s = .next t ∧ StacksFrame s t ∧ InHandler 0xFFFA s t ∧
    t.waiting = s.waiting ∧ t.nmiPending = s.nmiPending

/-- WAI stacks the frame and waits; it changes no flag and PC stays at the next instruction (R251). -/
def Obligations.WaiStacksAndWaits : Prop :=
  ∀ (s : State), ∃ t, exec .wai s = .next t ∧ StacksFrame s t ∧ t.waiting = true ∧ t.p = s.p ∧ t.pc = s.pc ∧
    t.nmiPending = s.nmiPending

/-- RTI raises S by seven and stores nothing; where memory answers it loads P, B, A, X and PC from the seven bytes at
the stack, in this order, bits 7 and 6 of the P byte being dropped (R250, R307). -/
def Obligations.RtiPullsTheFrame : Prop :=
  ∀ (s : State) (q : Nat → Byte),
    (∀ k, q k = s.mem.read (pullAddr s.cfg.stack (s.sp + BitVec.ofNat 16 k))) →
    (∃ t, exec .rti s = .next t ∧ t.sp = s.sp + 7 ∧ t.mem = s.mem) ∧
    ((∀ k, k < 7 → s.answers (pullAddr s.cfg.stack (s.sp + BitVec.ofNat 16 k)) = true) →
      exec .rti s = .next { s with
        p := ⟨(q 0).getLsbD 5, (q 0).getLsbD 4, (q 0).getLsbD 3, (q 0).getLsbD 2, (q 0).getLsbD 1, (q 0).getLsbD 0⟩
        b := q 1
        a := q 2
        x := q 3 ++ q 4
        pc := q 5 ++ q 6
        sp := s.sp + 7 })

/-- RTI undoes the trap: after SWI, with the stack in `ram`, the handler's RTI gives the registers, the flags (the old I
among them), S and PC back, whatever the handler did to the other registers (R249, R307). -/
def Obligations.RtiUndoesTheTrap : Prop :=
  ∀ (s t u : State),
    (∀ k, k < 7 → s.kindAt (pushAddr s.cfg.stack (s.sp - BitVec.ofNat 16 k)) = .ram) →
    exec .swi s = .next t → u.mem = t.mem → u.sp = t.sp → u.cfg = t.cfg →
    ∃ v, exec .rti u = .next v ∧ v.a = s.a ∧ v.b = s.b ∧ v.x = s.x ∧ v.p = s.p ∧ v.pc = s.pc ∧ v.sp = s.sp

/-- A step with the reset line up stores nothing, sets I, clears `waiting` and `nmi_pending`, and loads PC from FFFE;
with the registers kept it changes nothing else, and repeating it changes nothing further (R350, R351). Whether the
unspecified registers are kept or drawn is the model's choice (assumption log 7). -/
def Obligations.ResetStepLoadsTheVector : Prop :=
  ∀ (s u : State), u = envMove s → u.resetLine = true →
    (∃ t, step s = .next t ∧ t.p.i = true ∧ t.waiting = false ∧ t.nmiPending = false ∧ t.mem = u.mem ∧
      (u.answers 0xFFFE = true → u.answers 0xFFFF = true → t.pc = u.mem.read 0xFFFE ++ u.mem.read 0xFFFF)) ∧
    (u.cfg.resetRegs = .kept → u.answers 0xFFFE = true → u.answers 0xFFFF = true →
      step s = .next { u with
        p := { u.p with i := true }
        waiting := false
        nmiPending := false
        pc := u.mem.read 0xFFFE ++ u.mem.read 0xFFFF } ∧
      (u.moves = [] → ∀ t, step s = .next t → step t = .next t))

/-- After reset I is 1, the processor does not wait, no NMI is pending and PC is the word memory holds at FFFE (R38). -/
def Obligations.ResetStateIsAsTheSpecSays : Prop :=
  State.reset.p.i = true ∧ State.reset.waiting = false ∧ State.reset.nmiPending = false ∧
    State.reset.pc = State.reset.mem.read 0xFFFE ++ State.reset.mem.read 0xFFFF

/-- With I = 1 the hardware interrupt line cannot be observed: a step does the same whatever the level of the line, the
line itself apart (R30, R310, R311; that the line keeps its level without a move is assumption log 4; it compares two
steps that draw the same free values because their counters are equal, assumption log 6). -/
def Obligations.MaskedIrqLineIsInvisible : Prop :=
  ∀ (s : State) (f : Bool), s.moves = [] → s.p.i = true → step (s.withIrq f) = withIrq f (step s)

/-! ## Invariants of the step -/

/-- Every step keeps memory in canonical form (R35; the form is the model's, assumption log 3). -/
def Obligations.StepKeepsMemoryCanonical : Prop := ∀ (s t : State), s.Inv → step s = .next t → t.Inv

/-- Memory is in canonical form after reset (the form is the model's, assumption log 3). -/
def Obligations.ResetMemoryIsCanonical : Prop := State.reset.Inv

/-- No step changes a byte that is not `ram`: `rom` keeps its value, and a write to `io` or `unmapped` leaves Mem
unchanged (R58, R323). -/
def Obligations.StepChangesRamOnly : Prop :=
  ∀ (s t : State), step s = .next t → ∀ addr, s.kindAt addr ≠ .ram → t.mem.read addr = s.mem.read addr

/-- The events recorded are only added to, and none is added on a platform without `io` addresses (R58; their list is
the model's, assumption log 9). -/
def Obligations.EventsAreOnlyAdded : Prop :=
  ∀ (s t : State), step s = .next t →
    (∃ l, t.ioLog = l ++ s.ioLog) ∧ ((∀ addr, s.kindAt addr ≠ .io) → t.ioLog = s.ioLog)

/-! ## What each instruction leaves alone -/

/-- No instruction writes a flag that the card's HINZVC column marks `-`, and a flag marked `0` or `1` has that value
afterwards (R31, R32). -/
def Obligations.FlagsFollowTheCard : Prop :=
  ∀ (i : Instr) (s t : State), exec i s = .next t → (flagRow i).holds s.p t.p

/-- A, B, X, S, and PC apart from fetching, are unchanged by every instruction that R39 (for PC, R26) does not list as
writing them. -/
def Obligations.RegistersChangeAsListed : Prop :=
  ∀ (i : Instr) (s t : State), exec i s = .next t →
    ((writes i).a = false → t.a = s.a) ∧ ((writes i).b = false → t.b = s.b) ∧
    ((writes i).x = false → t.x = s.x) ∧ ((writes i).sp = false → t.sp = s.sp) ∧
    ((writes i).pc = false → t.pc = s.pc)

/-- Every byte of memory reads as before but those the instruction stores to, whose addresses are computed as the
instruction computes them; an instruction that stores nothing leaves memory as it was (R39, R55). -/
def Obligations.MemoryChangesWhereStored : Prop :=
  ∀ (i : Instr) (s t : State), exec i s = .next t →
    (∀ addr, addr ∉ storedAt i s → t.mem.read addr = s.mem.read addr) ∧ (storedAt i s = [] → t.mem = s.mem)

/-- No instruction touches the environment's inputs, the pending NMI or the parameters, and only WAI starts a wait
(R36, R250). -/
def Obligations.InstructionsLeaveTheEnvironment : Prop :=
  ∀ (i : Instr) (s t : State), exec i s = .next t →
    t.irqLine = s.irqLine ∧ t.resetLine = s.resetLine ∧ t.accept = s.accept ∧ t.moves = s.moves ∧
    t.nmiPending = s.nmiPending ∧ t.cfg = s.cfg ∧ (i ≠ .wai → t.waiting = s.waiting)

/-! ## Operands and memory -/

/-- The effective addresses of the modes, and the target of a relative branch, as numbers (R88 to R91). -/
def Obligations.EffectiveAddressesWrap : Prop :=
  ∀ (s : State) (n : Byte) (addr : Word),
    (ea (.dir n) s).toNat = n.toNat ∧ (ea (.idx n) s).toNat = (s.x.toNat + n.toNat) % 65536 ∧
    ea (.ext addr) s = addr ∧ ((relTarget n s).toNat : Int) = (s.pc.toNat + n.toInt) % 65536

/-- Reading a source: an immediate is the operand itself, a memory operand what is read at the effective address. A 16-bit
memory operand is two byte reads, high byte first, the second at the next address and in the state the first left, whatever
the kinds of the two addresses; where memory answers at both, nothing else changes (R12, R54, R87, R92). -/
def Obligations.SourcesReadTheOperand : Prop :=
  ∀ (s : State) (n : Byte) (nn : Word) (m : Mode),
    src8 (.imm n) s = (n, s) ∧ src16 (.imm nn) s = (nn, s) ∧ src8 (.mem m) s = memRead8 (ea m s) s ∧
    (∀ h l, h = memRead8 (ea m s) s → l = memRead8 (ea m s + 1) h.2 → src16 (.mem m) s = (h.1 ++ l.1, l.2)) ∧
    (s.answers (ea m s) = true → s.answers (ea m s + 1) = true →
      src16 (.mem m) s = (s.mem.read (ea m s) ++ s.mem.read (ea m s + 1), s))

/-- What a byte read and a byte write do at an address of each kind; every address of the default map is `ram` (R58).
The form of a draw and of an event is the model's (assumption log 6 and 9). -/
def Obligations.MemoryActsByKind : Prop :=
  (∀ (addr : Word) (v : Byte) (s : State),
    (s.kindAt addr = .ram →
      memRead8 addr s = (s.mem.read addr, s) ∧ memWrite8 addr v s = { s with mem := s.mem.write addr v }) ∧
    (s.kindAt addr = .rom → memRead8 addr s = (s.mem.read addr, s) ∧ memWrite8 addr v s = s) ∧
    (s.kindAt addr = .io →
      memRead8 addr s =
        (Config.freeByte s.draws, { s with ioLog := .read addr :: s.ioLog, draws := s.draws + 1 }) ∧
      memWrite8 addr v s = { s with ioLog := .write addr v :: s.ioLog }) ∧
    (s.kindAt addr = .unmapped →
      memRead8 addr s = (Config.freeByte s.draws, { s with draws := s.draws + 1 }) ∧ memWrite8 addr v s = s)) ∧
  ∀ addr, State.reset.kindAt addr = .ram

/-- A 16-bit access is two byte accesses, at `addr` and then at `addr + 1`, whatever the kinds of the two, and at `io`
addresses the events show this order. In `ram`, after a 16-bit write of `v` to `addr` a byte read of `addr` returns the high
byte and one of `addr + 1` the low byte, also where the address wraps; and a byte stored is what a fetch there then gets
(R12, R51, R53, R54, R58, R64; that the events are a list, the newest first, is the model's choice, assumption log 9). -/
def Obligations.StoresAreSeenByReadsAndFetches : Prop :=
  ∀ (addr v : Word) (n hi lo : Byte) (s : State),
    hi = BitVec.ofNat 8 (v.toNat / 256) → lo = BitVec.ofNat 8 (v.toNat % 256) →
    (∀ h l, h = memRead8 addr s → l = memRead8 (addr + 1) h.2 → memRead16 addr s = (h.1 ++ l.1, l.2)) ∧
    memWrite16 addr v s = memWrite8 (addr + 1) lo (memWrite8 addr hi s) ∧
    (s.kindAt addr = .io → s.kindAt (addr + 1) = .io →
      (memRead16 addr s).2.ioLog = .read (addr + 1) :: .read addr :: s.ioLog ∧
      (memWrite16 addr v s).ioLog = .write (addr + 1) lo :: .write addr hi :: s.ioLog) ∧
    (s.kindAt addr = .ram →
      (s.kindAt (addr + 1) = .ram →
        (memRead8 addr (memWrite16 addr v s)).1.toNat = v.toNat / 256 ∧
        (memRead8 (addr + 1) (memWrite16 addr v s)).1.toNat = v.toNat % 256 ∧
        (memRead16 addr (memWrite16 addr v s)).1 = v) ∧
      (fetch8 { memWrite8 addr n s with pc := addr }).1 = n)

/-- The stack primitives, under both conventions: where a push stores and a pull reads, what S becomes, and the low byte
pushed first (R13). -/
def Obligations.StackPrimitivesFollowTheConvention : Prop :=
  ∀ (s : State) (v : Byte) (w : Word),
    (s.cfg.stack = .card →
      push8 v s = memWrite8 (s.sp - 1) v { s with sp := s.sp - 1 } ∧
      (pull8 s).1 = (memRead8 s.sp s).1 ∧ (pull8 s).2 = { (memRead8 s.sp s).2 with sp := s.sp + 1 }) ∧
    (s.cfg.stack = .hw6800 →
      push8 v s = { memWrite8 s.sp v s with sp := s.sp - 1 } ∧
      pull8 s = memRead8 (s.sp + 1) { s with sp := s.sp + 1 }) ∧
    push16 w s = push8 (BitVec.ofNat 8 (w.toNat / 256)) (push8 (BitVec.ofNat 8 w.toNat) s) ∧
    (pull16 s).1 = (pull8 s).1 ++ (pull8 (pull8 s).2).1 ∧ (pull16 s).2 = (pull8 (pull8 s).2).2

/-! ## Results: loads, stores, transfers, stack -/

/-- A load copies the operand and sets N and Z by it, clears V, and writes nothing else (R110 to R113). -/
def Obligations.LoadsCopyTheOperand : Prop :=
  (∀ (o : Src8) (s : State), ∃ q, IsMoved8 (src8 o s).1 s.p q ∧
    exec (.ldaa o) s = .next { (src8 o s).2 with a := (src8 o s).1, p := q } ∧
    exec (.ldab o) s = .next { (src8 o s).2 with b := (src8 o s).1, p := q }) ∧
  (∀ (o : Src16) (s : State), ∃ q, IsMoved16 (src16 o s).1 s.p q ∧
    (∃ h l, h ++ l = (src16 o s).1 ∧ exec (.ldd o) s = .next { (src16 o s).2 with a := h, b := l, p := q }) ∧
    exec (.lds o) s = .next { (src16 o s).2 with sp := (src16 o s).1, p := q } ∧
    exec (.ldx o) s = .next { (src16 o s).2 with x := (src16 o s).1, p := q })

/-- A store writes the register at the effective address computed before it, and sets N, Z, V by the value
(R114 to R117). -/
def Obligations.StoresWriteTheRegister : Prop :=
  ∀ (o : Mode) (s : State),
    (∃ q, exec (.staa o) s = .next { memWrite8 (ea o s) s.a s with p := q } ∧ IsMoved8 s.a s.p q) ∧
    (∃ q, exec (.stab o) s = .next { memWrite8 (ea o s) s.b s with p := q } ∧ IsMoved8 s.b s.p q) ∧
    (∃ q, exec (.std o) s = .next { memWrite16 (ea o s) (s.a ++ s.b) s with p := q } ∧ IsMoved16 (s.a ++ s.b) s.p q) ∧
    (∃ q, exec (.sts o) s = .next { memWrite16 (ea o s) s.sp s with p := q } ∧ IsMoved16 s.sp s.p q) ∧
    (∃ q, exec (.stx o) s = .next { memWrite16 (ea o s) s.x s with p := q } ∧ IsMoved16 s.x s.p q)

/-- TAB and TBA move and set N, Z, V; TSX and TXS move the address of the last byte pushed, with no flag
(R118 to R121). -/
def Obligations.TransfersMoveRegisters : Prop :=
  ∀ (s : State),
    (∃ q, exec .tab s = .next { s with b := s.a, p := q } ∧ IsMoved8 s.a s.p q) ∧
    (∃ q, exec .tba s = .next { s with a := s.b, p := q } ∧ IsMoved8 s.b s.p q) ∧
    (s.cfg.stack = .card → exec .tsx s = .next { s with x := s.sp } ∧ exec .txs s = .next { s with sp := s.x }) ∧
    (s.cfg.stack = .hw6800 →
      exec .tsx s = .next { s with x := s.sp + 1 } ∧ exec .txs s = .next { s with sp := s.x - 1 })

/-- PSHA, PSHB, PSHX push, PULA, PULB, PULX pull, and no flag is written (R122 to R127); the primitives are those of
StackPrimitivesFollowTheConvention. -/
def Obligations.PushesAndPullsMoveRegisters : Prop :=
  ∀ (s : State),
    exec .psha s = .next (push8 s.a s) ∧ exec .pshb s = .next (push8 s.b s) ∧ exec .pshx s = .next (push16 s.x s) ∧
    exec .pula s = .next { (pull8 s).2 with a := (pull8 s).1 } ∧
    exec .pulb s = .next { (pull8 s).2 with b := (pull8 s).1 } ∧
    exec .pulx s = .next { (pull16 s).2 with x := (pull16 s).1 }

/-- A push then a pull gives the value back and leaves S as it was, where the stack is `ram`: PSHX and PULX restore X,
PSHA and PULB copy A to B, TSX and TXS restore S (R121, R126, R127). -/
def Obligations.PullUndoesPush : Prop :=
  ∀ (s : State),
    (s.kindAt (pushAddr s.cfg.stack s.sp) = .ram →
      ∃ t, execAll [.psha, .pulb] s = .next t ∧ t.b = s.a ∧ t.a = s.a ∧ t.sp = s.sp ∧ t.p = s.p) ∧
    (s.kindAt (pushAddr s.cfg.stack s.sp) = .ram → s.kindAt (pushAddr s.cfg.stack (s.sp - 1)) = .ram →
      ∃ t, execAll [.pshx, .pulx] s = .next t ∧ t.x = s.x ∧ t.sp = s.sp ∧ t.p = s.p) ∧
    ∃ t, execAll [.tsx, .txs] s = .next t ∧ t.sp = s.sp

/-! ## Results: arithmetic -/

/-- ABA, ADDr and ADCr: the exact sum, its carry, its half carry and its signed overflow (R140, R142, R143). -/
def Obligations.AddsGiveTheSum : Prop :=
  ∀ (o : Src8) (s : State),
    (∃ r q, exec .aba s = .next { s with a := r, p := q } ∧ IsSum8 s.a s.b false s.p r q) ∧
    (∃ r q, exec (.adda o) s = .next { (src8 o s).2 with a := r, p := q } ∧ IsSum8 s.a (src8 o s).1 false s.p r q) ∧
    (∃ r q, exec (.addb o) s = .next { (src8 o s).2 with b := r, p := q } ∧ IsSum8 s.b (src8 o s).1 false s.p r q) ∧
    (∃ r q, exec (.adca o) s = .next { (src8 o s).2 with a := r, p := q } ∧ IsSum8 s.a (src8 o s).1 s.p.c s.p r q) ∧
    (∃ r q, exec (.adcb o) s = .next { (src8 o s).2 with b := r, p := q } ∧ IsSum8 s.b (src8 o s).1 s.p.c s.p r q)

/-- SBA, SUBr, SBCr: the exact difference, its borrow and its signed overflow; CBA and CMPr set the same flags and write
no register (R145 to R147, R149, R150). -/
def Obligations.SubtractsAndComparesGiveTheDifference : Prop :=
  ∀ (o : Src8) (s : State),
    (∃ r q, exec .sba s = .next { s with a := r, p := q } ∧ exec .cba s = .next { s with p := q } ∧
      IsDiff8 s.a s.b false s.p r q) ∧
    (∃ r q, exec (.suba o) s = .next { (src8 o s).2 with a := r, p := q } ∧
      exec (.cmpa o) s = .next { (src8 o s).2 with p := q } ∧ IsDiff8 s.a (src8 o s).1 false s.p r q) ∧
    (∃ r q, exec (.subb o) s = .next { (src8 o s).2 with b := r, p := q } ∧
      exec (.cmpb o) s = .next { (src8 o s).2 with p := q } ∧ IsDiff8 s.b (src8 o s).1 false s.p r q) ∧
    (∃ r q, exec (.sbca o) s = .next { (src8 o s).2 with a := r, p := q } ∧ IsDiff8 s.a (src8 o s).1 s.p.c s.p r q) ∧
    (∃ r q, exec (.sbcb o) s = .next { (src8 o s).2 with b := r, p := q } ∧ IsDiff8 s.b (src8 o s).1 s.p.c s.p r q)

/-- ADDD and SUBD on the pair A:B, and CPX under both values of CPX_MODEL (R144, R148, R151). -/
def Obligations.SixteenBitArithmeticIsExact : Prop :=
  ∀ (o : Src16) (s : State),
    (∃ h l q, exec (.addd o) s = .next { (src16 o s).2 with a := h, b := l, p := q } ∧
      IsSum16 (s.a ++ s.b) (src16 o s).1 s.p (h ++ l) q) ∧
    (∃ h l q, exec (.subd o) s = .next { (src16 o s).2 with a := h, b := l, p := q } ∧
      IsDiff16 (s.a ++ s.b) (src16 o s).1 s.p (h ++ l) q) ∧
    (s.cfg.cpx = .card16 →
      ∃ r q, exec (.cpx o) s = .next { (src16 o s).2 with p := q } ∧ IsDiff16 s.x (src16 o s).1 s.p r q) ∧
    (s.cfg.cpx = .m6800 →
      ∃ r q, exec (.cpx o) s =
          .next { (src16 o s).2 with p := { q with c := s.p.c, z := decide (s.x = (src16 o s).1) } } ∧
        IsDiff8 (hiByte s.x) (hiByte (src16 o s).1) false s.p r q)

/-- DAA adds 06, 60 or both as the digits, H and C say; C is never cleared, and V is a free bit (R152; the form
of its draw is assumption log 6). -/
def Obligations.DaaAddsTheCorrection : Prop :=
  ∀ (s : State) (f : Nat),
    f = (if s.a.toNat % 16 > 9 ∨ s.p.h = true then 6 else 0) +
      (if s.a.toNat / 16 > 9 ∨ s.p.c = true ∨ (s.a.toNat / 16 > 8 ∧ s.a.toNat % 16 > 9) then 96 else 0) →
    ∃ r q, exec .daa s = .next { s with a := r, p := q, draws := s.draws + 1 } ∧
      r.toNat = (s.a.toNat + f) % 256 ∧ IsCounted8 r s.p q ∧ q.v = Config.freeBit s.draws ∧
      q.c = (s.p.c || decide (256 ≤ s.a.toNat + f))

/-- After ABA, ADDA or ADCA on two packed decimal bytes DAA leaves their decimal sum in A and the decimal carry in C
(R152). -/
def Obligations.DaaGivesTheDecimalSum : Prop :=
  ∀ (o : Src8) (s : State), IsBcd s.a →
    (IsBcd s.b → ∃ t, execAll [.aba, .daa] s = .next t ∧
      IsBcd t.a ∧ bcdValue t.a + 100 * t.p.c.toNat = bcdValue s.a + bcdValue s.b) ∧
    (IsBcd (src8 o s).1 →
      (∃ t, execAll [.adda o, .daa] s = .next t ∧
        IsBcd t.a ∧ bcdValue t.a + 100 * t.p.c.toNat = bcdValue s.a + bcdValue (src8 o s).1) ∧
      (∃ t, execAll [.adca o, .daa] s = .next t ∧
        IsBcd t.a ∧ bcdValue t.a + 100 * t.p.c.toNat = bcdValue s.a + bcdValue (src8 o s).1 + s.p.c.toNat))

/-- MUL gives the exact unsigned product in A:B and bit 7 of it in C; ABX adds B unsigned; INS, DES, INX, DEX count by
one, INX and DEX writing Z alone (R141, R153, R160 to R163). -/
def Obligations.MultiplyAndCountsAreExact : Prop :=
  ∀ (s : State),
    (∃ h l, exec .mul s = .next { s with a := h, b := l, p := { s.p with c := l.getLsbD 7 } } ∧
      256 * h.toNat + l.toNat = s.a.toNat * s.b.toNat) ∧
    (∃ x, exec .abx s = .next { s with x := x } ∧ x.toNat = (s.x.toNat + s.b.toNat) % 65536) ∧
    exec .ins s = .next { s with sp := s.sp + 1 } ∧ exec .des s = .next { s with sp := s.sp - 1 } ∧
    exec .inx s = .next { s with x := s.x + 1, p := { s.p with z := decide (s.x.toNat = 65535) } } ∧
    exec .dex s = .next { s with x := s.x - 1, p := { s.p with z := decide (s.x.toNat = 1) } }

/-- NEG gives zero minus the operand, in memory (read once, then written) and in each accumulator (R154, R155). -/
def Obligations.NegatesSubtractFromZero : Prop :=
  ∀ (o : MemOp) (s : State),
    (∃ r q, exec (.neg o) s =
        .next (memWrite8 (ea o.mode s) r { (memRead8 (ea o.mode s) s).2 with p := q }) ∧
      IsDiff8 0 (memRead8 (ea o.mode s) s).1 false s.p r q) ∧
    (∃ r q, exec .nega s = .next { s with a := r, p := q } ∧ IsDiff8 0 s.a false s.p r q) ∧
    (∃ r q, exec .negb s = .next { s with b := r, p := q } ∧ IsDiff8 0 s.b false s.p r q)

/-- INC and DEC count by one modulo 256, leave C alone, and leave V to the parameter V_UNKNOWN (R156 to R159, R33;
the form of its draw is assumption log 6). -/
def Obligations.IncrementsAndDecrementsCount : Prop :=
  ∀ (o : MemOp) (s : State) (m : Byte × State), m = memRead8 (ea o.mode s) s →
    (∃ r q d, exec (.inc o) s = .next (memWrite8 (ea o.mode s) r { m.2 with p := q, draws := d }) ∧
      r.toNat = (m.1.toNat + 1) % 256 ∧ IsCounted8 r s.p q ∧ q.c = s.p.c ∧ OpenV m.2 (m.1 == 0x7F) q.v d) ∧
    (∃ r q d, exec (.dec o) s = .next (memWrite8 (ea o.mode s) r { m.2 with p := q, draws := d }) ∧
      r.toNat = (m.1.toNat + 255) % 256 ∧ IsCounted8 r s.p q ∧ q.c = s.p.c ∧ OpenV m.2 (m.1 == 0x80) q.v d) ∧
    (∃ r q d, exec .inca s = .next { s with a := r, p := q, draws := d } ∧
      r.toNat = (s.a.toNat + 1) % 256 ∧ IsCounted8 r s.p q ∧ q.c = s.p.c ∧ OpenV s (s.a == 0x7F) q.v d) ∧
    (∃ r q d, exec .incb s = .next { s with b := r, p := q, draws := d } ∧
      r.toNat = (s.b.toNat + 1) % 256 ∧ IsCounted8 r s.p q ∧ q.c = s.p.c ∧ OpenV s (s.b == 0x7F) q.v d) ∧
    (∃ r q d, exec .deca s = .next { s with a := r, p := q, draws := d } ∧
      r.toNat = (s.a.toNat + 255) % 256 ∧ IsCounted8 r s.p q ∧ q.c = s.p.c ∧ OpenV s (s.a == 0x80) q.v d) ∧
    (∃ r q d, exec .decb s = .next { s with b := r, p := q, draws := d } ∧
      r.toNat = (s.b.toNat + 255) % 256 ∧ IsCounted8 r s.p q ∧ q.c = s.p.c ∧ OpenV s (s.b == 0x80) q.v d)

/-- CLR writes zero without reading, TST reads without writing, and both clear V and C (R164 to R167, R56). -/
def Obligations.ClearsAndTestsSetTheFlags : Prop :=
  ∀ (o : MemOp) (s : State) (z : CCR), z = { s.p with n := false, z := true, v := false, c := false } →
    exec (.clr o) s = .next { memWrite8 (ea o.mode s) 0 s with p := z } ∧
    exec .clra s = .next { s with a := 0, p := z } ∧ exec .clrb s = .next { s with b := 0, p := z } ∧
    (∃ q, exec (.tst o) s = .next { (memRead8 (ea o.mode s) s).2 with p := { q with c := false } } ∧
      IsMoved8 (memRead8 (ea o.mode s) s).1 s.p q) ∧
    (∃ q, exec .tsta s = .next { s with p := { q with c := false } } ∧ IsMoved8 s.a s.p q) ∧
    (∃ q, exec .tstb s = .next { s with p := { q with c := false } } ∧ IsMoved8 s.b s.p q)

/-! ## Results: logic, shifts and rotates -/

/-- ANDr, EORr and ORAr combine bit by bit and keep C; BITr sets the flags of ANDr and writes no register (R180 to R183). -/
def Obligations.LogicCombinesBitByBit : Prop :=
  ∀ (o : Src8) (s : State) (m : Byte), m = (src8 o s).1 →
    (∃ r q, exec (.anda o) s = .next { (src8 o s).2 with a := r, p := q } ∧
      exec (.bita o) s = .next { (src8 o s).2 with p := q } ∧ IsMoved8 r s.p q ∧
      ∀ k, r.getLsbD k = (s.a.getLsbD k && m.getLsbD k)) ∧
    (∃ r q, exec (.andb o) s = .next { (src8 o s).2 with b := r, p := q } ∧
      exec (.bitb o) s = .next { (src8 o s).2 with p := q } ∧ IsMoved8 r s.p q ∧
      ∀ k, r.getLsbD k = (s.b.getLsbD k && m.getLsbD k)) ∧
    (∃ r q, exec (.eora o) s = .next { (src8 o s).2 with a := r, p := q } ∧ IsMoved8 r s.p q ∧
      ∀ k, r.getLsbD k = (s.a.getLsbD k ^^ m.getLsbD k)) ∧
    (∃ r q, exec (.eorb o) s = .next { (src8 o s).2 with b := r, p := q } ∧ IsMoved8 r s.p q ∧
      ∀ k, r.getLsbD k = (s.b.getLsbD k ^^ m.getLsbD k)) ∧
    (∃ r q, exec (.oraa o) s = .next { (src8 o s).2 with a := r, p := q } ∧ IsMoved8 r s.p q ∧
      ∀ k, r.getLsbD k = (s.a.getLsbD k || m.getLsbD k)) ∧
    (∃ r q, exec (.orab o) s = .next { (src8 o s).2 with b := r, p := q } ∧ IsMoved8 r s.p q ∧
      ∀ k, r.getLsbD k = (s.b.getLsbD k || m.getLsbD k))

/-- COM gives 255 minus the operand and sets C always; applied twice it restores the operand (R184, R185). -/
def Obligations.ComplementsInvertTheBits : Prop :=
  ∀ (o : MemOp) (s : State) (m : Byte × State), m = memRead8 (ea o.mode s) s →
    (∃ r q, exec (.com o) s = .next (memWrite8 (ea o.mode s) r { m.2 with p := { q with c := true } }) ∧
      r.toNat = 255 - m.1.toNat ∧ IsMoved8 r s.p q) ∧
    (∃ r q, exec .coma s = .next { s with a := r, p := { q with c := true } } ∧
      r.toNat = 255 - s.a.toNat ∧ IsMoved8 r s.p q) ∧
    (∃ r q, exec .comb s = .next { s with b := r, p := { q with c := true } } ∧
      r.toNat = 255 - s.b.toNat ∧ IsMoved8 r s.p q) ∧
    (∃ t, execAll [.coma, .coma] s = .next t ∧ t.a = s.a ∧ t.p.c = true)

/-- ASL doubles, ASR halves rounding toward minus infinity, LSR halves unsigned, in memory; C takes the bit shifted
out, N of LSR is 0, and V is N xor C (R189, R190, R193, R195). -/
def Obligations.MemoryShiftsMoveOneBit : Prop :=
  ∀ (o : MemOp) (s : State) (m : Byte × State), m = memRead8 (ea o.mode s) s →
    (∃ r q, exec (.asl o) s = .next (memWrite8 (ea o.mode s) r { m.2 with p := q }) ∧
      r.toNat + 256 * q.c.toNat = 2 * m.1.toNat ∧ IsCounted8 r s.p q ∧ q.v = (q.n ^^ q.c)) ∧
    (∃ r q, exec (.asr o) s = .next (memWrite8 (ea o.mode s) r { m.2 with p := q }) ∧
      2 * r.toInt + q.c.toNat = m.1.toInt ∧ IsCounted8 r s.p q ∧ q.v = (q.n ^^ q.c)) ∧
    (∃ r q, exec (.lsr o) s = .next (memWrite8 (ea o.mode s) r { m.2 with p := q }) ∧
      2 * r.toNat + q.c.toNat = m.1.toNat ∧ IsCounted8 r s.p q ∧ q.v = (q.n ^^ q.c))

/-- The same of A, of B and (but for ASR, which D does not have) of D (R191, R192, R194, R196, R197). -/
def Obligations.AccumulatorShiftsMoveOneBit : Prop :=
  ∀ (s : State),
    (∃ r q, exec .asla s = .next { s with a := r, p := q } ∧
      r.toNat + 256 * q.c.toNat = 2 * s.a.toNat ∧ IsCounted8 r s.p q ∧ q.v = (q.n ^^ q.c)) ∧
    (∃ r q, exec .aslb s = .next { s with b := r, p := q } ∧
      r.toNat + 256 * q.c.toNat = 2 * s.b.toNat ∧ IsCounted8 r s.p q ∧ q.v = (q.n ^^ q.c)) ∧
    (∃ h l q, exec .asld s = .next { s with a := h, b := l, p := q } ∧
      (h ++ l).toNat + 65536 * q.c.toNat = 2 * (s.a ++ s.b).toNat ∧ IsCounted16 (h ++ l) s.p q ∧ q.v = (q.n ^^ q.c)) ∧
    (∃ r q, exec .asra s = .next { s with a := r, p := q } ∧
      2 * r.toInt + q.c.toNat = s.a.toInt ∧ IsCounted8 r s.p q ∧ q.v = (q.n ^^ q.c)) ∧
    (∃ r q, exec .asrb s = .next { s with b := r, p := q } ∧
      2 * r.toInt + q.c.toNat = s.b.toInt ∧ IsCounted8 r s.p q ∧ q.v = (q.n ^^ q.c)) ∧
    (∃ r q, exec .lsra s = .next { s with a := r, p := q } ∧
      2 * r.toNat + q.c.toNat = s.a.toNat ∧ IsCounted8 r s.p q ∧ q.v = (q.n ^^ q.c)) ∧
    (∃ r q, exec .lsrb s = .next { s with b := r, p := q } ∧
      2 * r.toNat + q.c.toNat = s.b.toNat ∧ IsCounted8 r s.p q ∧ q.v = (q.n ^^ q.c)) ∧
    (∃ h l q, exec .lsrd s = .next { s with a := h, b := l, p := q } ∧
      2 * (h ++ l).toNat + q.c.toNat = (s.a ++ s.b).toNat ∧ IsCounted16 (h ++ l) s.p q ∧ q.v = (q.n ^^ q.c))

/-- ROL and ROR rotate the nine bits of C and the operand by one place, V being left to V_UNKNOWN (R198 to R201,
R189; the form of its draw is assumption log 6). -/
def Obligations.RotatesTurnNineBits : Prop :=
  ∀ (o : MemOp) (s : State) (m : Byte × State), m = memRead8 (ea o.mode s) s →
    (∃ r q d, exec (.rol o) s = .next (memWrite8 (ea o.mode s) r { m.2 with p := q, draws := d }) ∧
      r.toNat + 256 * q.c.toNat = 2 * m.1.toNat + s.p.c.toNat ∧ IsCounted8 r s.p q ∧ OpenV m.2 (q.n ^^ q.c) q.v d) ∧
    (∃ r q d, exec (.ror o) s = .next (memWrite8 (ea o.mode s) r { m.2 with p := q, draws := d }) ∧
      2 * r.toNat + q.c.toNat = m.1.toNat + 256 * s.p.c.toNat ∧ IsCounted8 r s.p q ∧ OpenV m.2 (q.n ^^ q.c) q.v d) ∧
    (∃ r q d, exec .rola s = .next { s with a := r, p := q, draws := d } ∧
      r.toNat + 256 * q.c.toNat = 2 * s.a.toNat + s.p.c.toNat ∧ IsCounted8 r s.p q ∧ OpenV s (q.n ^^ q.c) q.v d) ∧
    (∃ r q d, exec .rolb s = .next { s with b := r, p := q, draws := d } ∧
      r.toNat + 256 * q.c.toNat = 2 * s.b.toNat + s.p.c.toNat ∧ IsCounted8 r s.p q ∧ OpenV s (q.n ^^ q.c) q.v d) ∧
    (∃ r q d, exec .rora s = .next { s with a := r, p := q, draws := d } ∧
      2 * r.toNat + q.c.toNat = s.a.toNat + 256 * s.p.c.toNat ∧ IsCounted8 r s.p q ∧ OpenV s (q.n ^^ q.c) q.v d) ∧
    (∃ r q d, exec .rorb s = .next { s with b := r, p := q, draws := d } ∧
      2 * r.toNat + q.c.toNat = s.b.toNat + 256 * s.p.c.toNat ∧ IsCounted8 r s.p q ∧ OpenV s (q.n ^^ q.c) q.v d)

/-- Nine rotates restore the operand and C, of A, of B and of a byte of `ram`; on a part without the D instructions ASLB
then ROLA shifts A:B left as ASLD does, and LSRA then RORB right as LSRD does, C included (R198 to R201). -/
def Obligations.RotatesChainThroughTheCarry : Prop :=
  ∀ (o : MemOp) (s : State),
    (∃ t, execAll (List.replicate 9 .rola) s = .next t ∧ t.a = s.a ∧ t.p.c = s.p.c) ∧
    (∃ t, execAll (List.replicate 9 .rolb) s = .next t ∧ t.b = s.b ∧ t.p.c = s.p.c) ∧
    (∃ t, execAll (List.replicate 9 .rora) s = .next t ∧ t.a = s.a ∧ t.p.c = s.p.c) ∧
    (∃ t, execAll (List.replicate 9 .rorb) s = .next t ∧ t.b = s.b ∧ t.p.c = s.p.c) ∧
    (s.kindAt (ea o.mode s) = .ram →
      (∃ t, execAll (List.replicate 9 (.rol o)) s = .next t ∧ t.p.c = s.p.c ∧
        ∀ addr, t.mem.read addr = s.mem.read addr) ∧
      (∃ t, execAll (List.replicate 9 (.ror o)) s = .next t ∧ t.p.c = s.p.c ∧
        ∀ addr, t.mem.read addr = s.mem.read addr)) ∧
    (∃ t u, execAll [.aslb, .rola] s = .next t ∧ exec .asld s = .next u ∧ t.a = u.a ∧ t.b = u.b ∧ t.p.c = u.p.c) ∧
    (∃ t u, execAll [.lsra, .rorb] s = .next t ∧ exec .lsrd s = .next u ∧ t.a = u.a ∧ t.b = u.b ∧ t.p.c = u.p.c)

/-! ## Results: branches, jumps, subroutines -/

/-- Each relative branch takes the target when its condition holds, leaves PC at the next instruction when not, and
changes nothing else (R209 to R227). -/
def Obligations.BranchesTestTheFlags : Prop :=
  ∀ (rel : Byte) (s : State) (go : Bool → Result),
    (∀ f, go f = .next (if f = true then { s with pc := BitVec.ofInt 16 (s.pc.toNat + rel.toInt) } else s)) →
    exec (.bra rel) s = go true ∧ exec (.brn rel) s = go false ∧
    exec (.bcc rel) s = go (!s.p.c) ∧ exec (.bcs rel) s = go s.p.c ∧
    exec (.bhs rel) s = go (!s.p.c) ∧ exec (.blo rel) s = go s.p.c ∧
    exec (.bne rel) s = go (!s.p.z) ∧ exec (.beq rel) s = go s.p.z ∧
    exec (.bvc rel) s = go (!s.p.v) ∧ exec (.bvs rel) s = go s.p.v ∧
    exec (.bpl rel) s = go (!s.p.n) ∧ exec (.bmi rel) s = go s.p.n ∧
    exec (.bhi rel) s = go (decide (s.p.c = false ∧ s.p.z = false)) ∧
    exec (.bls rel) s = go (decide (s.p.c = true ∨ s.p.z = true)) ∧
    exec (.bge rel) s = go (decide (s.p.n = s.p.v)) ∧ exec (.blt rel) s = go (decide (s.p.n ≠ s.p.v)) ∧
    exec (.bgt rel) s = go (decide (s.p.z = false ∧ s.p.n = s.p.v)) ∧
    exec (.ble rel) s = go (decide (s.p.z = true ∨ s.p.n ≠ s.p.v))

/-- After a compare or a subtraction the branches read the order of its two operands as unsigned and as signed numbers:
after CMPA or SUBA that of A and the source, after CMPB or SUBB that of B and the source, after CBA or SBA that of A and B, each
as they were before it (an inference R209 marks as its own). -/
def Obligations.BranchesAfterCompareReadTheOrder : Prop :=
  ∀ (o : Src8) (rel : Byte) (s t : State) (r m : Byte) (go : Bool → Result),
    (r = s.a ∧ m = (src8 o s).1 ∧ (exec (.cmpa o) s = .next t ∨ exec (.suba o) s = .next t) ∨
      r = s.b ∧ m = (src8 o s).1 ∧ (exec (.cmpb o) s = .next t ∨ exec (.subb o) s = .next t) ∨
      r = s.a ∧ m = s.b ∧ (exec .cba s = .next t ∨ exec .sba s = .next t)) →
    (∀ f, go f = .next (if f = true then { t with pc := BitVec.ofInt 16 (t.pc.toNat + rel.toInt) } else t)) →
    exec (.beq rel) t = go (decide (r = m)) ∧ exec (.bne rel) t = go (decide (r ≠ m)) ∧
    exec (.bhi rel) t = go (decide (r.toNat > m.toNat)) ∧ exec (.bls rel) t = go (decide (r.toNat ≤ m.toNat)) ∧
    exec (.bcc rel) t = go (decide (r.toNat ≥ m.toNat)) ∧ exec (.bhs rel) t = go (decide (r.toNat ≥ m.toNat)) ∧
    exec (.bcs rel) t = go (decide (r.toNat < m.toNat)) ∧ exec (.blo rel) t = go (decide (r.toNat < m.toNat)) ∧
    exec (.bgt rel) t = go (decide (r.toInt > m.toInt)) ∧ exec (.bge rel) t = go (decide (r.toInt ≥ m.toInt)) ∧
    exec (.blt rel) t = go (decide (r.toInt < m.toInt)) ∧ exec (.ble rel) t = go (decide (r.toInt ≤ m.toInt))

/-- JMP goes to the effective address, JSR and BSR push the address of the next instruction first, RTS pulls PC, and no
flag changes (R228 to R231). -/
def Obligations.JumpsAndCallsSetThePc : Prop :=
  ∀ (o : MemOp) (rel : Byte) (s : State),
    exec (.jmp o) s = .next { s with pc := ea o.mode s } ∧
    exec (.jsr o) s = .next { push16 s.pc s with pc := ea o.mode s } ∧
    exec (.bsr rel) s = .next { push16 s.pc s with pc := BitVec.ofInt 16 (s.pc.toNat + rel.toInt) } ∧
    exec .rts s = .next { (pull16 s).2 with pc := (pull16 s).1 }

/-- RTS returns behind the call, with S as it was, where the two stack bytes are `ram`; and PSHB, PSHA, RTS jumps to A:B
under either stack convention (R228, R230, R231). -/
def Obligations.RtsReturnsBehindTheCall : Prop :=
  ∀ (o : MemOp) (rel : Byte) (s : State),
    s.kindAt (pushAddr s.cfg.stack s.sp) = .ram → s.kindAt (pushAddr s.cfg.stack (s.sp - 1)) = .ram →
    (∃ t, execAll [.jsr o, .rts] s = .next t ∧ t.pc = s.pc ∧ t.sp = s.sp) ∧
    (∃ t, execAll [.bsr rel, .rts] s = .next t ∧ t.pc = s.pc ∧ t.sp = s.sp) ∧
    (∃ t, execAll [.pshb, .psha, .rts] s = .next t ∧ t.pc = s.a ++ s.b ∧ t.sp = s.sp)

/-! ## Results: condition codes -/

/-- Each flag instruction, a single byte, writes its one flag and nothing else, and NOP nothing at all (R240 to R245, R248). -/
def Obligations.FlagInstructionsWriteOneFlag : Prop :=
  ∀ (s : State),
    (encode .clc = [0x0C] ∧ exec .clc s = .next { s with p := { s.p with c := false } }) ∧
    (encode .sec = [0x0D] ∧ exec .sec s = .next { s with p := { s.p with c := true } }) ∧
    (encode .clv = [0x0A] ∧ exec .clv s = .next { s with p := { s.p with v := false } }) ∧
    (encode .sev = [0x0B] ∧ exec .sev s = .next { s with p := { s.p with v := true } }) ∧
    (encode .cli = [0x0E] ∧ exec .cli s = .next { s with p := { s.p with i := false } }) ∧
    (encode .sei = [0x0F] ∧ exec .sei s = .next { s with p := { s.p with i := true } }) ∧
    (encode .nop = [0x01] ∧ exec .nop s = .next s)

/-- TAP loads the six flags from bits 5 to 0 of A; TPA reads them back below CCR_UNUSED_READ; TPA then TAP leaves every
flag as it was (R246, R247, R28, R29). -/
def Obligations.TapAndTpaMoveTheFlags : Prop :=
  ∀ (s : State),
    exec .tap s = .next { s with p :=
      ⟨s.a.getLsbD 5, s.a.getLsbD 4, s.a.getLsbD 3, s.a.getLsbD 2, s.a.getLsbD 1, s.a.getLsbD 0⟩ } ∧
    (∃ v, exec .tpa s = .next { s with a := v } ∧
      v.toNat = 64 * s.cfg.ccrUnused.toNat + 32 * s.p.h.toNat + 16 * s.p.i.toNat + 8 * s.p.n.toNat +
        4 * s.p.z.toNat + 2 * s.p.v.toNat + s.p.c.toNat) ∧
    (∃ t, execAll [.tpa, .tap] s = .next t ∧ t.p = s.p)

/-! ## The two stack conventions -/

/-- The two stack conventions give the same machine when `S_card = S_hw6800 + 1`: for every instruction but LDS and STS,
which move the number in S itself, executing it and then changing convention is changing convention and then executing
it, memory included; so it is for an interrupt entry (R13; it compares two runs that draw the same free values because
their counters are equal, assumption log 6). -/
def Obligations.StackConventionsAgree : Prop :=
  ∀ (s : State), s.cfg.stack = .card →
    (∀ i, (∀ o, i ≠ .lds o) → (∀ o, i ≠ .sts o) → exec i s.toHw6800 = toHw6800 (exec i s)) ∧
    ∀ vec, takeInterrupt vec s.toHw6800 = (takeInterrupt vec s).toHw6800
end

