-- ==== Sys2Proof/Laws/Memory.lean ====
section
/-!
SUPPORT. The laws of memory: a read after a write, the canonical form, and memories that read alike are equal.
-/

namespace Sys2Proof.Machine

/-! ## Reading after writing -/

theorem Memory.get_erase (m : Memory) (k j : Nat) :
    (m.erase k).get j = if j = k then unlistedByte else m.get j := by
  induction m with
  | nil => simp [Memory.erase, Memory.get]
  | cons c rest ih =>
    obtain ⟨k', v'⟩ := c
    simp only [Memory.erase] at ih ⊢
    by_cases hk : k' = k
    · subst hk
      simp only [List.filter_cons, bne_self_eq_false, Bool.false_eq_true, if_false, ih, Memory.get]
      by_cases hj : j = k'
      · simp [hj]
      · simp [hj, Ne.symm hj]
    · have : (k' != k) = true := by simpa using hk
      simp only [List.filter_cons, this, if_true, Memory.get, ih]
      by_cases hj : k' = j
      · subst hj; simp [hk]
      · simp [hj]

theorem Memory.get_insert (m : Memory) (k j : Nat) (v : Byte) :
    (m.insert k v).get j = if j = k then v else m.get j := by
  induction m with
  | nil => simp [Memory.insert, Memory.get, eq_comm]
  | cons c rest ih =>
    obtain ⟨k', v'⟩ := c
    simp only [Memory.insert]
    split
    · simp only [Memory.get, eq_comm]
    · split
      · rename_i hk; subst hk
        by_cases hj : j = k' <;> simp [Memory.get, hj, eq_comm]
      · rename_i hk
        simp only [Memory.get, ih]
        by_cases hj : k' = j
        · subst hj; simp [hk]
        · simp [hj]

/-- A put changes what its key reads as and nothing else, in any memory. -/
theorem Memory.get_put (m : Memory) (k j : Nat) (v : Byte) :
    (m.put k v).get j = if j = k then v else m.get j := by
  unfold Memory.put
  split
  · rename_i hv; rw [Memory.get_erase, hv]
  · exact Memory.get_insert m k j v

/-- Reading any address after a write. -/
theorem Memory.read_write (m : Memory) (addr adr : Word) (v : Byte) :
    (m.write addr v).read adr = if adr = addr then v else m.read adr := by
  simp only [Memory.read, Memory.write, Memory.get_put, BitVec.toNat_inj]

/-- A read after a write to the same address gives the byte written. -/
@[simp] theorem Memory.read_write_same (m : Memory) (addr : Word) (v : Byte) : (m.write addr v).read addr = v := by
  simp [Memory.read_write]

/-- A write leaves every other address alone. -/
theorem Memory.read_write_other (m : Memory) (addr adr : Word) (v : Byte) (h : adr ≠ addr) :
    (m.write addr v).read adr = m.read adr := by
  simp [Memory.read_write, h]

/-! ## The canonical form -/

theorem Memory.insert_keys (m : Memory) (k : Nat) (v : Byte) (c : Host.Cell) (h : c ∈ m.insert k v) :
    c = (k, v) ∨ c ∈ m := by
  induction m with
  | nil => simpa [Memory.insert] using h
  | cons d rest ih =>
    obtain ⟨k', v'⟩ := d
    simp only [Memory.insert] at h
    split at h
    · simpa using h
    · split at h
      · rcases List.mem_cons.1 h with h | h
        · exact .inl h
        · exact .inr (List.mem_cons_of_mem _ h)
      · rcases List.mem_cons.1 h with h | h
        · exact .inr (h ▸ List.mem_cons_self)
        · rcases ih h with h | h
          · exact .inl h
          · exact .inr (List.mem_cons_of_mem _ h)

theorem Memory.insert_rising (m : Memory) (k : Nat) (v : Byte) (h : m.Pairwise (fun c d => c.1 < d.1)) :
    (m.insert k v).Pairwise (fun c d => c.1 < d.1) := by
  induction m with
  | nil => simp [Memory.insert]
  | cons d rest ih =>
    obtain ⟨k', v'⟩ := d
    obtain ⟨hd, hr⟩ := List.pairwise_cons.1 h
    simp only [Memory.insert]
    split
    · rename_i hk
      refine List.pairwise_cons.2 ⟨fun c hc => ?_, h⟩
      rcases List.mem_cons.1 hc with hc | hc
      · subst hc; exact hk
      · exact Nat.lt_trans hk (hd c hc)
    · split
      · rename_i hk; subst hk
        exact List.pairwise_cons.2 ⟨hd, hr⟩
      · refine List.pairwise_cons.2 ⟨fun c hc => ?_, ih hr⟩
        rcases Memory.insert_keys rest k v c hc with hc | hc
        · subst hc; simp only; omega
        · exact hd c hc

/-- A write keeps the canonical form. -/
theorem Memory.write_wf (m : Memory) (addr : Word) (v : Byte) (h : m.wf) : (m.write addr v).wf := by
  unfold Memory.write Memory.put
  split
  · exact ⟨h.1.filter _, fun c hc => h.2 c (List.mem_filter.1 hc).1⟩
  · rename_i hv
    refine ⟨Memory.insert_rising m _ v h.1, fun c hc => ?_⟩
    rcases Memory.insert_keys m _ v c hc with hc | hc
    · subst hc; exact ⟨hv, addr.isLt⟩
    · exact h.2 c hc

/-! ## Memories in canonical form that read alike are equal -/

theorem Memory.get_below (m : Memory) (k : Nat) (h : ∀ c ∈ m, k < c.1) : m.get k = unlistedByte := by
  induction m with
  | nil => rfl
  | cons c rest ih =>
    have := h c List.mem_cons_self
    simp only [Memory.get]
    rw [if_neg (by omega)]
    exact ih fun d hd => h d (List.mem_cons_of_mem _ hd)

/-- Two memories in canonical form that read alike at every key are the same data. -/
theorem Memory.ext_get (m m' : Memory) (h : m.wf) (h' : m'.wf) (hr : ∀ k, m.get k = m'.get k) : m = m' := by
  induction m generalizing m' with
  | nil =>
    cases m' with
    | nil => rfl
    | cons c rest =>
      have := hr c.1
      simp only [Memory.get, if_true] at this
      exact absurd this.symm (h'.2 c List.mem_cons_self).1
  | cons c rest ih =>
    obtain ⟨hc, hrest⟩ := List.pairwise_cons.1 h.1
    cases m' with
    | nil =>
      have := hr c.1
      simp only [Memory.get, if_true] at this
      exact absurd this (h.2 c List.mem_cons_self).1
    | cons c' rest' =>
      obtain ⟨hc', hrest'⟩ := List.pairwise_cons.1 h'.1
      have hkey : c.1 = c'.1 := by
        rcases Nat.lt_trichotomy c.1 c'.1 with hlt | heq | hgt
        · have h1 := hr c.1
          rw [Memory.get_below (c' :: rest') c.1 (fun d hd => by
            rcases List.mem_cons.1 hd with hd | hd
            · subst hd; exact hlt
            · exact Nat.lt_trans hlt (hc' d hd))] at h1
          simp only [Memory.get, if_true] at h1
          exact absurd h1 (h.2 c List.mem_cons_self).1
        · exact heq
        · have h1 := hr c'.1
          rw [Memory.get_below (c :: rest) c'.1 (fun d hd => by
            rcases List.mem_cons.1 hd with hd | hd
            · subst hd; exact hgt
            · exact Nat.lt_trans hgt (hc d hd))] at h1
          simp only [Memory.get, if_true] at h1
          exact absurd h1.symm (h'.2 c' List.mem_cons_self).1
      have hval : c.2 = c'.2 := by
        have h1 := hr c.1
        simpa [Memory.get, hkey] using h1
      have htail : rest = rest' := by
        refine ih rest' ⟨hrest, fun d hd => h.2 d (List.mem_cons_of_mem _ hd)⟩
          ⟨hrest', fun d hd => h'.2 d (List.mem_cons_of_mem _ hd)⟩ fun k => ?_
        have h1 := hr k
        simp only [Memory.get] at h1
        by_cases hk : c.1 = k
        · subst hk
          rw [Memory.get_below rest _ hc, Memory.get_below rest' _ (hkey ▸ hc')]
        · rwa [if_neg hk, if_neg (hkey ▸ hk)] at h1
      rw [Prod.ext hkey hval, htail]

end Sys2Proof.Machine
end

