-- ==== Sys2Proof/Laws/State.lean ====
section
/-!
SUPPORT. What each update of the state does to each field: one lemma per field per update, and to the derived
readings of the state (an accumulator, D, the kind of an address).
-/

namespace Sys2Proof.Machine

/-! ## setA -/

@[simp] theorem State.setA_a (s : State) (v : Byte) : (s.setA v).a = v := rfl
@[simp] theorem State.setA_b (s : State) (v : Byte) : (s.setA v).b = s.b := rfl
@[simp] theorem State.setA_x (s : State) (v : Byte) : (s.setA v).x = s.x := rfl
@[simp] theorem State.setA_sp (s : State) (v : Byte) : (s.setA v).sp = s.sp := rfl
@[simp] theorem State.setA_pc (s : State) (v : Byte) : (s.setA v).pc = s.pc := rfl
@[simp] theorem State.setA_p (s : State) (v : Byte) : (s.setA v).p = s.p := rfl
@[simp] theorem State.setA_mem (s : State) (v : Byte) : (s.setA v).mem = s.mem := rfl
@[simp] theorem State.setA_waiting (s : State) (v : Byte) : (s.setA v).waiting = s.waiting := rfl
@[simp] theorem State.setA_nmiPending (s : State) (v : Byte) : (s.setA v).nmiPending = s.nmiPending := rfl
@[simp] theorem State.setA_irqLine (s : State) (v : Byte) : (s.setA v).irqLine = s.irqLine := rfl
@[simp] theorem State.setA_resetLine (s : State) (v : Byte) : (s.setA v).resetLine = s.resetLine := rfl
@[simp] theorem State.setA_accept (s : State) (v : Byte) : (s.setA v).accept = s.accept := rfl
@[simp] theorem State.setA_moves (s : State) (v : Byte) : (s.setA v).moves = s.moves := rfl
@[simp] theorem State.setA_draws (s : State) (v : Byte) : (s.setA v).draws = s.draws := rfl
@[simp] theorem State.setA_ioLog (s : State) (v : Byte) : (s.setA v).ioLog = s.ioLog := rfl
@[simp] theorem State.setA_cfg (s : State) (v : Byte) : (s.setA v).cfg = s.cfg := rfl
@[simp] theorem State.setA_kindAt (s : State) (v : Byte) (addr : Word) : (s.setA v).kindAt addr = s.kindAt addr := rfl

/-! ## setB -/

@[simp] theorem State.setB_a (s : State) (v : Byte) : (s.setB v).a = s.a := rfl
@[simp] theorem State.setB_b (s : State) (v : Byte) : (s.setB v).b = v := rfl
@[simp] theorem State.setB_x (s : State) (v : Byte) : (s.setB v).x = s.x := rfl
@[simp] theorem State.setB_sp (s : State) (v : Byte) : (s.setB v).sp = s.sp := rfl
@[simp] theorem State.setB_pc (s : State) (v : Byte) : (s.setB v).pc = s.pc := rfl
@[simp] theorem State.setB_p (s : State) (v : Byte) : (s.setB v).p = s.p := rfl
@[simp] theorem State.setB_mem (s : State) (v : Byte) : (s.setB v).mem = s.mem := rfl
@[simp] theorem State.setB_waiting (s : State) (v : Byte) : (s.setB v).waiting = s.waiting := rfl
@[simp] theorem State.setB_nmiPending (s : State) (v : Byte) : (s.setB v).nmiPending = s.nmiPending := rfl
@[simp] theorem State.setB_irqLine (s : State) (v : Byte) : (s.setB v).irqLine = s.irqLine := rfl
@[simp] theorem State.setB_resetLine (s : State) (v : Byte) : (s.setB v).resetLine = s.resetLine := rfl
@[simp] theorem State.setB_accept (s : State) (v : Byte) : (s.setB v).accept = s.accept := rfl
@[simp] theorem State.setB_moves (s : State) (v : Byte) : (s.setB v).moves = s.moves := rfl
@[simp] theorem State.setB_draws (s : State) (v : Byte) : (s.setB v).draws = s.draws := rfl
@[simp] theorem State.setB_ioLog (s : State) (v : Byte) : (s.setB v).ioLog = s.ioLog := rfl
@[simp] theorem State.setB_cfg (s : State) (v : Byte) : (s.setB v).cfg = s.cfg := rfl
@[simp] theorem State.setB_kindAt (s : State) (v : Byte) (addr : Word) : (s.setB v).kindAt addr = s.kindAt addr := rfl

/-! ## setX -/

@[simp] theorem State.setX_a (s : State) (v : Word) : (s.setX v).a = s.a := rfl
@[simp] theorem State.setX_b (s : State) (v : Word) : (s.setX v).b = s.b := rfl
@[simp] theorem State.setX_x (s : State) (v : Word) : (s.setX v).x = v := rfl
@[simp] theorem State.setX_sp (s : State) (v : Word) : (s.setX v).sp = s.sp := rfl
@[simp] theorem State.setX_pc (s : State) (v : Word) : (s.setX v).pc = s.pc := rfl
@[simp] theorem State.setX_p (s : State) (v : Word) : (s.setX v).p = s.p := rfl
@[simp] theorem State.setX_mem (s : State) (v : Word) : (s.setX v).mem = s.mem := rfl
@[simp] theorem State.setX_waiting (s : State) (v : Word) : (s.setX v).waiting = s.waiting := rfl
@[simp] theorem State.setX_nmiPending (s : State) (v : Word) : (s.setX v).nmiPending = s.nmiPending := rfl
@[simp] theorem State.setX_irqLine (s : State) (v : Word) : (s.setX v).irqLine = s.irqLine := rfl
@[simp] theorem State.setX_resetLine (s : State) (v : Word) : (s.setX v).resetLine = s.resetLine := rfl
@[simp] theorem State.setX_accept (s : State) (v : Word) : (s.setX v).accept = s.accept := rfl
@[simp] theorem State.setX_moves (s : State) (v : Word) : (s.setX v).moves = s.moves := rfl
@[simp] theorem State.setX_draws (s : State) (v : Word) : (s.setX v).draws = s.draws := rfl
@[simp] theorem State.setX_ioLog (s : State) (v : Word) : (s.setX v).ioLog = s.ioLog := rfl
@[simp] theorem State.setX_cfg (s : State) (v : Word) : (s.setX v).cfg = s.cfg := rfl
@[simp] theorem State.setX_kindAt (s : State) (v : Word) (addr : Word) : (s.setX v).kindAt addr = s.kindAt addr := rfl

/-! ## setSP -/

@[simp] theorem State.setSP_a (s : State) (v : Word) : (s.setSP v).a = s.a := rfl
@[simp] theorem State.setSP_b (s : State) (v : Word) : (s.setSP v).b = s.b := rfl
@[simp] theorem State.setSP_x (s : State) (v : Word) : (s.setSP v).x = s.x := rfl
@[simp] theorem State.setSP_sp (s : State) (v : Word) : (s.setSP v).sp = v := rfl
@[simp] theorem State.setSP_pc (s : State) (v : Word) : (s.setSP v).pc = s.pc := rfl
@[simp] theorem State.setSP_p (s : State) (v : Word) : (s.setSP v).p = s.p := rfl
@[simp] theorem State.setSP_mem (s : State) (v : Word) : (s.setSP v).mem = s.mem := rfl
@[simp] theorem State.setSP_waiting (s : State) (v : Word) : (s.setSP v).waiting = s.waiting := rfl
@[simp] theorem State.setSP_nmiPending (s : State) (v : Word) : (s.setSP v).nmiPending = s.nmiPending := rfl
@[simp] theorem State.setSP_irqLine (s : State) (v : Word) : (s.setSP v).irqLine = s.irqLine := rfl
@[simp] theorem State.setSP_resetLine (s : State) (v : Word) : (s.setSP v).resetLine = s.resetLine := rfl
@[simp] theorem State.setSP_accept (s : State) (v : Word) : (s.setSP v).accept = s.accept := rfl
@[simp] theorem State.setSP_moves (s : State) (v : Word) : (s.setSP v).moves = s.moves := rfl
@[simp] theorem State.setSP_draws (s : State) (v : Word) : (s.setSP v).draws = s.draws := rfl
@[simp] theorem State.setSP_ioLog (s : State) (v : Word) : (s.setSP v).ioLog = s.ioLog := rfl
@[simp] theorem State.setSP_cfg (s : State) (v : Word) : (s.setSP v).cfg = s.cfg := rfl
@[simp] theorem State.setSP_kindAt (s : State) (v : Word) (addr : Word) : (s.setSP v).kindAt addr = s.kindAt addr := rfl

/-! ## setPC -/

@[simp] theorem State.setPC_a (s : State) (v : Word) : (s.setPC v).a = s.a := rfl
@[simp] theorem State.setPC_b (s : State) (v : Word) : (s.setPC v).b = s.b := rfl
@[simp] theorem State.setPC_x (s : State) (v : Word) : (s.setPC v).x = s.x := rfl
@[simp] theorem State.setPC_sp (s : State) (v : Word) : (s.setPC v).sp = s.sp := rfl
@[simp] theorem State.setPC_pc (s : State) (v : Word) : (s.setPC v).pc = v := rfl
@[simp] theorem State.setPC_p (s : State) (v : Word) : (s.setPC v).p = s.p := rfl
@[simp] theorem State.setPC_mem (s : State) (v : Word) : (s.setPC v).mem = s.mem := rfl
@[simp] theorem State.setPC_waiting (s : State) (v : Word) : (s.setPC v).waiting = s.waiting := rfl
@[simp] theorem State.setPC_nmiPending (s : State) (v : Word) : (s.setPC v).nmiPending = s.nmiPending := rfl
@[simp] theorem State.setPC_irqLine (s : State) (v : Word) : (s.setPC v).irqLine = s.irqLine := rfl
@[simp] theorem State.setPC_resetLine (s : State) (v : Word) : (s.setPC v).resetLine = s.resetLine := rfl
@[simp] theorem State.setPC_accept (s : State) (v : Word) : (s.setPC v).accept = s.accept := rfl
@[simp] theorem State.setPC_moves (s : State) (v : Word) : (s.setPC v).moves = s.moves := rfl
@[simp] theorem State.setPC_draws (s : State) (v : Word) : (s.setPC v).draws = s.draws := rfl
@[simp] theorem State.setPC_ioLog (s : State) (v : Word) : (s.setPC v).ioLog = s.ioLog := rfl
@[simp] theorem State.setPC_cfg (s : State) (v : Word) : (s.setPC v).cfg = s.cfg := rfl
@[simp] theorem State.setPC_kindAt (s : State) (v : Word) (addr : Word) : (s.setPC v).kindAt addr = s.kindAt addr := rfl

/-! ## setP -/

@[simp] theorem State.setP_a (s : State) (v : CCR) : (s.setP v).a = s.a := rfl
@[simp] theorem State.setP_b (s : State) (v : CCR) : (s.setP v).b = s.b := rfl
@[simp] theorem State.setP_x (s : State) (v : CCR) : (s.setP v).x = s.x := rfl
@[simp] theorem State.setP_sp (s : State) (v : CCR) : (s.setP v).sp = s.sp := rfl
@[simp] theorem State.setP_pc (s : State) (v : CCR) : (s.setP v).pc = s.pc := rfl
@[simp] theorem State.setP_p (s : State) (v : CCR) : (s.setP v).p = v := rfl
@[simp] theorem State.setP_mem (s : State) (v : CCR) : (s.setP v).mem = s.mem := rfl
@[simp] theorem State.setP_waiting (s : State) (v : CCR) : (s.setP v).waiting = s.waiting := rfl
@[simp] theorem State.setP_nmiPending (s : State) (v : CCR) : (s.setP v).nmiPending = s.nmiPending := rfl
@[simp] theorem State.setP_irqLine (s : State) (v : CCR) : (s.setP v).irqLine = s.irqLine := rfl
@[simp] theorem State.setP_resetLine (s : State) (v : CCR) : (s.setP v).resetLine = s.resetLine := rfl
@[simp] theorem State.setP_accept (s : State) (v : CCR) : (s.setP v).accept = s.accept := rfl
@[simp] theorem State.setP_moves (s : State) (v : CCR) : (s.setP v).moves = s.moves := rfl
@[simp] theorem State.setP_draws (s : State) (v : CCR) : (s.setP v).draws = s.draws := rfl
@[simp] theorem State.setP_ioLog (s : State) (v : CCR) : (s.setP v).ioLog = s.ioLog := rfl
@[simp] theorem State.setP_cfg (s : State) (v : CCR) : (s.setP v).cfg = s.cfg := rfl
@[simp] theorem State.setP_kindAt (s : State) (v : CCR) (addr : Word) : (s.setP v).kindAt addr = s.kindAt addr := rfl

/-! ## setMem -/

@[simp] theorem State.setMem_a (s : State) (v : Memory) : (s.setMem v).a = s.a := rfl
@[simp] theorem State.setMem_b (s : State) (v : Memory) : (s.setMem v).b = s.b := rfl
@[simp] theorem State.setMem_x (s : State) (v : Memory) : (s.setMem v).x = s.x := rfl
@[simp] theorem State.setMem_sp (s : State) (v : Memory) : (s.setMem v).sp = s.sp := rfl
@[simp] theorem State.setMem_pc (s : State) (v : Memory) : (s.setMem v).pc = s.pc := rfl
@[simp] theorem State.setMem_p (s : State) (v : Memory) : (s.setMem v).p = s.p := rfl
@[simp] theorem State.setMem_mem (s : State) (v : Memory) : (s.setMem v).mem = v := rfl
@[simp] theorem State.setMem_waiting (s : State) (v : Memory) : (s.setMem v).waiting = s.waiting := rfl
@[simp] theorem State.setMem_nmiPending (s : State) (v : Memory) : (s.setMem v).nmiPending = s.nmiPending := rfl
@[simp] theorem State.setMem_irqLine (s : State) (v : Memory) : (s.setMem v).irqLine = s.irqLine := rfl
@[simp] theorem State.setMem_resetLine (s : State) (v : Memory) : (s.setMem v).resetLine = s.resetLine := rfl
@[simp] theorem State.setMem_accept (s : State) (v : Memory) : (s.setMem v).accept = s.accept := rfl
@[simp] theorem State.setMem_moves (s : State) (v : Memory) : (s.setMem v).moves = s.moves := rfl
@[simp] theorem State.setMem_draws (s : State) (v : Memory) : (s.setMem v).draws = s.draws := rfl
@[simp] theorem State.setMem_ioLog (s : State) (v : Memory) : (s.setMem v).ioLog = s.ioLog := rfl
@[simp] theorem State.setMem_cfg (s : State) (v : Memory) : (s.setMem v).cfg = s.cfg := rfl
@[simp] theorem State.setMem_kindAt (s : State) (v : Memory) (addr : Word) : (s.setMem v).kindAt addr = s.kindAt addr := rfl

/-! ## setWaiting -/

@[simp] theorem State.setWaiting_a (s : State) (v : Bool) : (s.setWaiting v).a = s.a := rfl
@[simp] theorem State.setWaiting_b (s : State) (v : Bool) : (s.setWaiting v).b = s.b := rfl
@[simp] theorem State.setWaiting_x (s : State) (v : Bool) : (s.setWaiting v).x = s.x := rfl
@[simp] theorem State.setWaiting_sp (s : State) (v : Bool) : (s.setWaiting v).sp = s.sp := rfl
@[simp] theorem State.setWaiting_pc (s : State) (v : Bool) : (s.setWaiting v).pc = s.pc := rfl
@[simp] theorem State.setWaiting_p (s : State) (v : Bool) : (s.setWaiting v).p = s.p := rfl
@[simp] theorem State.setWaiting_mem (s : State) (v : Bool) : (s.setWaiting v).mem = s.mem := rfl
@[simp] theorem State.setWaiting_waiting (s : State) (v : Bool) : (s.setWaiting v).waiting = v := rfl
@[simp] theorem State.setWaiting_nmiPending (s : State) (v : Bool) : (s.setWaiting v).nmiPending = s.nmiPending := rfl
@[simp] theorem State.setWaiting_irqLine (s : State) (v : Bool) : (s.setWaiting v).irqLine = s.irqLine := rfl
@[simp] theorem State.setWaiting_resetLine (s : State) (v : Bool) : (s.setWaiting v).resetLine = s.resetLine := rfl
@[simp] theorem State.setWaiting_accept (s : State) (v : Bool) : (s.setWaiting v).accept = s.accept := rfl
@[simp] theorem State.setWaiting_moves (s : State) (v : Bool) : (s.setWaiting v).moves = s.moves := rfl
@[simp] theorem State.setWaiting_draws (s : State) (v : Bool) : (s.setWaiting v).draws = s.draws := rfl
@[simp] theorem State.setWaiting_ioLog (s : State) (v : Bool) : (s.setWaiting v).ioLog = s.ioLog := rfl
@[simp] theorem State.setWaiting_cfg (s : State) (v : Bool) : (s.setWaiting v).cfg = s.cfg := rfl
@[simp] theorem State.setWaiting_kindAt (s : State) (v : Bool) (addr : Word) : (s.setWaiting v).kindAt addr = s.kindAt addr := rfl

/-! ## setNmiPending -/

@[simp] theorem State.setNmiPending_a (s : State) (v : Bool) : (s.setNmiPending v).a = s.a := rfl
@[simp] theorem State.setNmiPending_b (s : State) (v : Bool) : (s.setNmiPending v).b = s.b := rfl
@[simp] theorem State.setNmiPending_x (s : State) (v : Bool) : (s.setNmiPending v).x = s.x := rfl
@[simp] theorem State.setNmiPending_sp (s : State) (v : Bool) : (s.setNmiPending v).sp = s.sp := rfl
@[simp] theorem State.setNmiPending_pc (s : State) (v : Bool) : (s.setNmiPending v).pc = s.pc := rfl
@[simp] theorem State.setNmiPending_p (s : State) (v : Bool) : (s.setNmiPending v).p = s.p := rfl
@[simp] theorem State.setNmiPending_mem (s : State) (v : Bool) : (s.setNmiPending v).mem = s.mem := rfl
@[simp] theorem State.setNmiPending_waiting (s : State) (v : Bool) : (s.setNmiPending v).waiting = s.waiting := rfl
@[simp] theorem State.setNmiPending_nmiPending (s : State) (v : Bool) : (s.setNmiPending v).nmiPending = v := rfl
@[simp] theorem State.setNmiPending_irqLine (s : State) (v : Bool) : (s.setNmiPending v).irqLine = s.irqLine := rfl
@[simp] theorem State.setNmiPending_resetLine (s : State) (v : Bool) : (s.setNmiPending v).resetLine = s.resetLine := rfl
@[simp] theorem State.setNmiPending_accept (s : State) (v : Bool) : (s.setNmiPending v).accept = s.accept := rfl
@[simp] theorem State.setNmiPending_moves (s : State) (v : Bool) : (s.setNmiPending v).moves = s.moves := rfl
@[simp] theorem State.setNmiPending_draws (s : State) (v : Bool) : (s.setNmiPending v).draws = s.draws := rfl
@[simp] theorem State.setNmiPending_ioLog (s : State) (v : Bool) : (s.setNmiPending v).ioLog = s.ioLog := rfl
@[simp] theorem State.setNmiPending_cfg (s : State) (v : Bool) : (s.setNmiPending v).cfg = s.cfg := rfl
@[simp] theorem State.setNmiPending_kindAt (s : State) (v : Bool) (addr : Word) : (s.setNmiPending v).kindAt addr = s.kindAt addr := rfl

/-! ## setDraws -/

@[simp] theorem State.setDraws_a (s : State) (v : Nat) : (s.setDraws v).a = s.a := rfl
@[simp] theorem State.setDraws_b (s : State) (v : Nat) : (s.setDraws v).b = s.b := rfl
@[simp] theorem State.setDraws_x (s : State) (v : Nat) : (s.setDraws v).x = s.x := rfl
@[simp] theorem State.setDraws_sp (s : State) (v : Nat) : (s.setDraws v).sp = s.sp := rfl
@[simp] theorem State.setDraws_pc (s : State) (v : Nat) : (s.setDraws v).pc = s.pc := rfl
@[simp] theorem State.setDraws_p (s : State) (v : Nat) : (s.setDraws v).p = s.p := rfl
@[simp] theorem State.setDraws_mem (s : State) (v : Nat) : (s.setDraws v).mem = s.mem := rfl
@[simp] theorem State.setDraws_waiting (s : State) (v : Nat) : (s.setDraws v).waiting = s.waiting := rfl
@[simp] theorem State.setDraws_nmiPending (s : State) (v : Nat) : (s.setDraws v).nmiPending = s.nmiPending := rfl
@[simp] theorem State.setDraws_irqLine (s : State) (v : Nat) : (s.setDraws v).irqLine = s.irqLine := rfl
@[simp] theorem State.setDraws_resetLine (s : State) (v : Nat) : (s.setDraws v).resetLine = s.resetLine := rfl
@[simp] theorem State.setDraws_accept (s : State) (v : Nat) : (s.setDraws v).accept = s.accept := rfl
@[simp] theorem State.setDraws_moves (s : State) (v : Nat) : (s.setDraws v).moves = s.moves := rfl
@[simp] theorem State.setDraws_draws (s : State) (v : Nat) : (s.setDraws v).draws = v := rfl
@[simp] theorem State.setDraws_ioLog (s : State) (v : Nat) : (s.setDraws v).ioLog = s.ioLog := rfl
@[simp] theorem State.setDraws_cfg (s : State) (v : Nat) : (s.setDraws v).cfg = s.cfg := rfl
@[simp] theorem State.setDraws_kindAt (s : State) (v : Nat) (addr : Word) : (s.setDraws v).kindAt addr = s.kindAt addr := rfl

/-! ## setIoLog -/

@[simp] theorem State.setIoLog_a (s : State) (v : List IoEvent) : (s.setIoLog v).a = s.a := rfl
@[simp] theorem State.setIoLog_b (s : State) (v : List IoEvent) : (s.setIoLog v).b = s.b := rfl
@[simp] theorem State.setIoLog_x (s : State) (v : List IoEvent) : (s.setIoLog v).x = s.x := rfl
@[simp] theorem State.setIoLog_sp (s : State) (v : List IoEvent) : (s.setIoLog v).sp = s.sp := rfl
@[simp] theorem State.setIoLog_pc (s : State) (v : List IoEvent) : (s.setIoLog v).pc = s.pc := rfl
@[simp] theorem State.setIoLog_p (s : State) (v : List IoEvent) : (s.setIoLog v).p = s.p := rfl
@[simp] theorem State.setIoLog_mem (s : State) (v : List IoEvent) : (s.setIoLog v).mem = s.mem := rfl
@[simp] theorem State.setIoLog_waiting (s : State) (v : List IoEvent) : (s.setIoLog v).waiting = s.waiting := rfl
@[simp] theorem State.setIoLog_nmiPending (s : State) (v : List IoEvent) : (s.setIoLog v).nmiPending = s.nmiPending := rfl
@[simp] theorem State.setIoLog_irqLine (s : State) (v : List IoEvent) : (s.setIoLog v).irqLine = s.irqLine := rfl
@[simp] theorem State.setIoLog_resetLine (s : State) (v : List IoEvent) : (s.setIoLog v).resetLine = s.resetLine := rfl
@[simp] theorem State.setIoLog_accept (s : State) (v : List IoEvent) : (s.setIoLog v).accept = s.accept := rfl
@[simp] theorem State.setIoLog_moves (s : State) (v : List IoEvent) : (s.setIoLog v).moves = s.moves := rfl
@[simp] theorem State.setIoLog_draws (s : State) (v : List IoEvent) : (s.setIoLog v).draws = s.draws := rfl
@[simp] theorem State.setIoLog_ioLog (s : State) (v : List IoEvent) : (s.setIoLog v).ioLog = v := rfl
@[simp] theorem State.setIoLog_cfg (s : State) (v : List IoEvent) : (s.setIoLog v).cfg = s.cfg := rfl
@[simp] theorem State.setIoLog_kindAt (s : State) (v : List IoEvent) (addr : Word) : (s.setIoLog v).kindAt addr = s.kindAt addr := rfl

/-! ## setI, record, setD -/

@[simp] theorem State.setI_a (s : State) (f : Bool) : (s.setI f).a = s.a := rfl
@[simp] theorem State.setI_b (s : State) (f : Bool) : (s.setI f).b = s.b := rfl
@[simp] theorem State.setI_x (s : State) (f : Bool) : (s.setI f).x = s.x := rfl
@[simp] theorem State.setI_sp (s : State) (f : Bool) : (s.setI f).sp = s.sp := rfl
@[simp] theorem State.setI_pc (s : State) (f : Bool) : (s.setI f).pc = s.pc := rfl
@[simp] theorem State.setI_p (s : State) (f : Bool) : (s.setI f).p = { s.p with i := f } := rfl
@[simp] theorem State.setI_mem (s : State) (f : Bool) : (s.setI f).mem = s.mem := rfl
@[simp] theorem State.setI_waiting (s : State) (f : Bool) : (s.setI f).waiting = s.waiting := rfl
@[simp] theorem State.setI_nmiPending (s : State) (f : Bool) : (s.setI f).nmiPending = s.nmiPending := rfl
@[simp] theorem State.setI_irqLine (s : State) (f : Bool) : (s.setI f).irqLine = s.irqLine := rfl
@[simp] theorem State.setI_resetLine (s : State) (f : Bool) : (s.setI f).resetLine = s.resetLine := rfl
@[simp] theorem State.setI_accept (s : State) (f : Bool) : (s.setI f).accept = s.accept := rfl
@[simp] theorem State.setI_moves (s : State) (f : Bool) : (s.setI f).moves = s.moves := rfl
@[simp] theorem State.setI_draws (s : State) (f : Bool) : (s.setI f).draws = s.draws := rfl
@[simp] theorem State.setI_ioLog (s : State) (f : Bool) : (s.setI f).ioLog = s.ioLog := rfl
@[simp] theorem State.setI_cfg (s : State) (f : Bool) : (s.setI f).cfg = s.cfg := rfl
@[simp] theorem State.record_a (s : State) (e : IoEvent) : (s.record e).a = s.a := rfl
@[simp] theorem State.record_b (s : State) (e : IoEvent) : (s.record e).b = s.b := rfl
@[simp] theorem State.record_x (s : State) (e : IoEvent) : (s.record e).x = s.x := rfl
@[simp] theorem State.record_sp (s : State) (e : IoEvent) : (s.record e).sp = s.sp := rfl
@[simp] theorem State.record_pc (s : State) (e : IoEvent) : (s.record e).pc = s.pc := rfl
@[simp] theorem State.record_p (s : State) (e : IoEvent) : (s.record e).p = s.p := rfl
@[simp] theorem State.record_mem (s : State) (e : IoEvent) : (s.record e).mem = s.mem := rfl
@[simp] theorem State.record_waiting (s : State) (e : IoEvent) : (s.record e).waiting = s.waiting := rfl
@[simp] theorem State.record_nmiPending (s : State) (e : IoEvent) : (s.record e).nmiPending = s.nmiPending := rfl
@[simp] theorem State.record_irqLine (s : State) (e : IoEvent) : (s.record e).irqLine = s.irqLine := rfl
@[simp] theorem State.record_resetLine (s : State) (e : IoEvent) : (s.record e).resetLine = s.resetLine := rfl
@[simp] theorem State.record_accept (s : State) (e : IoEvent) : (s.record e).accept = s.accept := rfl
@[simp] theorem State.record_moves (s : State) (e : IoEvent) : (s.record e).moves = s.moves := rfl
@[simp] theorem State.record_draws (s : State) (e : IoEvent) : (s.record e).draws = s.draws := rfl
@[simp] theorem State.record_ioLog (s : State) (e : IoEvent) : (s.record e).ioLog = e :: s.ioLog := rfl
@[simp] theorem State.record_cfg (s : State) (e : IoEvent) : (s.record e).cfg = s.cfg := rfl
@[simp] theorem State.setD_a (s : State) (v : Word) : (s.setD v).a = hiByte v := rfl
@[simp] theorem State.setD_b (s : State) (v : Word) : (s.setD v).b = loByte v := rfl
@[simp] theorem State.setD_x (s : State) (v : Word) : (s.setD v).x = s.x := rfl
@[simp] theorem State.setD_sp (s : State) (v : Word) : (s.setD v).sp = s.sp := rfl
@[simp] theorem State.setD_pc (s : State) (v : Word) : (s.setD v).pc = s.pc := rfl
@[simp] theorem State.setD_p (s : State) (v : Word) : (s.setD v).p = s.p := rfl
@[simp] theorem State.setD_mem (s : State) (v : Word) : (s.setD v).mem = s.mem := rfl
@[simp] theorem State.setD_waiting (s : State) (v : Word) : (s.setD v).waiting = s.waiting := rfl
@[simp] theorem State.setD_nmiPending (s : State) (v : Word) : (s.setD v).nmiPending = s.nmiPending := rfl
@[simp] theorem State.setD_irqLine (s : State) (v : Word) : (s.setD v).irqLine = s.irqLine := rfl
@[simp] theorem State.setD_resetLine (s : State) (v : Word) : (s.setD v).resetLine = s.resetLine := rfl
@[simp] theorem State.setD_accept (s : State) (v : Word) : (s.setD v).accept = s.accept := rfl
@[simp] theorem State.setD_moves (s : State) (v : Word) : (s.setD v).moves = s.moves := rfl
@[simp] theorem State.setD_draws (s : State) (v : Word) : (s.setD v).draws = s.draws := rfl
@[simp] theorem State.setD_ioLog (s : State) (v : Word) : (s.setD v).ioLog = s.ioLog := rfl
@[simp] theorem State.setD_cfg (s : State) (v : Word) : (s.setD v).cfg = s.cfg := rfl
@[simp] theorem State.setI_kindAt (s : State) (f : Bool) (addr : Word) : (s.setI f).kindAt addr = s.kindAt addr := rfl
@[simp] theorem State.record_kindAt (s : State) (e : IoEvent) (addr : Word) : (s.record e).kindAt addr = s.kindAt addr := rfl
@[simp] theorem State.setD_kindAt (s : State) (f : Word) (addr : Word) : (s.setD f).kindAt addr = s.kindAt addr := rfl

/-! ## The accumulators by name -/

@[simp] theorem State.acc_A (s : State) : s.acc .A = s.a := rfl
@[simp] theorem State.acc_B (s : State) : s.acc .B = s.b := rfl
@[simp] theorem State.setAcc_A (s : State) (v : Byte) : s.setAcc .A v = s.setA v := rfl
@[simp] theorem State.setAcc_B (s : State) (v : Byte) : s.setAcc .B v = s.setB v := rfl
@[simp] theorem State.setAcc_x (s : State) (r : Acc) (v : Byte) : (s.setAcc r v).x = s.x := by cases r <;> rfl
@[simp] theorem State.setAcc_sp (s : State) (r : Acc) (v : Byte) : (s.setAcc r v).sp = s.sp := by cases r <;> rfl
@[simp] theorem State.setAcc_pc (s : State) (r : Acc) (v : Byte) : (s.setAcc r v).pc = s.pc := by cases r <;> rfl
@[simp] theorem State.setAcc_p (s : State) (r : Acc) (v : Byte) : (s.setAcc r v).p = s.p := by cases r <;> rfl
@[simp] theorem State.setAcc_mem (s : State) (r : Acc) (v : Byte) : (s.setAcc r v).mem = s.mem := by cases r <;> rfl
@[simp] theorem State.setAcc_waiting (s : State) (r : Acc) (v : Byte) : (s.setAcc r v).waiting = s.waiting := by cases r <;> rfl
@[simp] theorem State.setAcc_nmiPending (s : State) (r : Acc) (v : Byte) : (s.setAcc r v).nmiPending = s.nmiPending := by cases r <;> rfl
@[simp] theorem State.setAcc_irqLine (s : State) (r : Acc) (v : Byte) : (s.setAcc r v).irqLine = s.irqLine := by cases r <;> rfl
@[simp] theorem State.setAcc_resetLine (s : State) (r : Acc) (v : Byte) : (s.setAcc r v).resetLine = s.resetLine := by cases r <;> rfl
@[simp] theorem State.setAcc_accept (s : State) (r : Acc) (v : Byte) : (s.setAcc r v).accept = s.accept := by cases r <;> rfl
@[simp] theorem State.setAcc_moves (s : State) (r : Acc) (v : Byte) : (s.setAcc r v).moves = s.moves := by cases r <;> rfl
@[simp] theorem State.setAcc_draws (s : State) (r : Acc) (v : Byte) : (s.setAcc r v).draws = s.draws := by cases r <;> rfl
@[simp] theorem State.setAcc_ioLog (s : State) (r : Acc) (v : Byte) : (s.setAcc r v).ioLog = s.ioLog := by cases r <;> rfl
@[simp] theorem State.setAcc_cfg (s : State) (r : Acc) (v : Byte) : (s.setAcc r v).cfg = s.cfg := by cases r <;> rfl
@[simp] theorem State.setAcc_kindAt (s : State) (r : Acc) (v : Byte) (addr : Word) : (s.setAcc r v).kindAt addr = s.kindAt addr := by
  cases r <;> rfl

end Sys2Proof.Machine
end

