-- ==== Sys2Proof/Laws/Ops.lean ====
section
/-!
SUPPORT. What each shared operation can do, said once: which fields it leaves alone, what it answers where memory
answers, and what it leaves in the fields it writes. Provers cite these instead of unfolding the operation.
-/

namespace Sys2Proof.Machine

/-! ## Draws and reads: only the count of draws and the list of events can change -/

@[simp] theorem drawBit_a (s : State) : ((drawBit s).2).a = s.a := rfl
@[simp] theorem drawBit_b (s : State) : ((drawBit s).2).b = s.b := rfl
@[simp] theorem drawBit_x (s : State) : ((drawBit s).2).x = s.x := rfl
@[simp] theorem drawBit_sp (s : State) : ((drawBit s).2).sp = s.sp := rfl
@[simp] theorem drawBit_pc (s : State) : ((drawBit s).2).pc = s.pc := rfl
@[simp] theorem drawBit_p (s : State) : ((drawBit s).2).p = s.p := rfl
@[simp] theorem drawBit_mem (s : State) : ((drawBit s).2).mem = s.mem := rfl
@[simp] theorem drawBit_waiting (s : State) : ((drawBit s).2).waiting = s.waiting := rfl
@[simp] theorem drawBit_nmiPending (s : State) : ((drawBit s).2).nmiPending = s.nmiPending := rfl
@[simp] theorem drawBit_irqLine (s : State) : ((drawBit s).2).irqLine = s.irqLine := rfl
@[simp] theorem drawBit_resetLine (s : State) : ((drawBit s).2).resetLine = s.resetLine := rfl
@[simp] theorem drawBit_accept (s : State) : ((drawBit s).2).accept = s.accept := rfl
@[simp] theorem drawBit_moves (s : State) : ((drawBit s).2).moves = s.moves := rfl
@[simp] theorem drawBit_ioLog (s : State) : ((drawBit s).2).ioLog = s.ioLog := rfl
@[simp] theorem drawBit_cfg (s : State) : ((drawBit s).2).cfg = s.cfg := rfl
@[simp] theorem drawBit_kindAt (s : State) (adr : Word) : ((drawBit s).2).kindAt adr = s.kindAt adr := rfl

@[simp] theorem drawByte_a (s : State) : ((drawByte s).2).a = s.a := rfl
@[simp] theorem drawByte_b (s : State) : ((drawByte s).2).b = s.b := rfl
@[simp] theorem drawByte_x (s : State) : ((drawByte s).2).x = s.x := rfl
@[simp] theorem drawByte_sp (s : State) : ((drawByte s).2).sp = s.sp := rfl
@[simp] theorem drawByte_pc (s : State) : ((drawByte s).2).pc = s.pc := rfl
@[simp] theorem drawByte_p (s : State) : ((drawByte s).2).p = s.p := rfl
@[simp] theorem drawByte_mem (s : State) : ((drawByte s).2).mem = s.mem := rfl
@[simp] theorem drawByte_waiting (s : State) : ((drawByte s).2).waiting = s.waiting := rfl
@[simp] theorem drawByte_nmiPending (s : State) : ((drawByte s).2).nmiPending = s.nmiPending := rfl
@[simp] theorem drawByte_irqLine (s : State) : ((drawByte s).2).irqLine = s.irqLine := rfl
@[simp] theorem drawByte_resetLine (s : State) : ((drawByte s).2).resetLine = s.resetLine := rfl
@[simp] theorem drawByte_accept (s : State) : ((drawByte s).2).accept = s.accept := rfl
@[simp] theorem drawByte_moves (s : State) : ((drawByte s).2).moves = s.moves := rfl
@[simp] theorem drawByte_ioLog (s : State) : ((drawByte s).2).ioLog = s.ioLog := rfl
@[simp] theorem drawByte_cfg (s : State) : ((drawByte s).2).cfg = s.cfg := rfl
@[simp] theorem drawByte_kindAt (s : State) (adr : Word) : ((drawByte s).2).kindAt adr = s.kindAt adr := rfl

/-- A byte read changes nothing but the count of draws and the events. -/
theorem memRead8_state (addr : Word) (s : State) :
    ∃ d l, (memRead8 addr s).2 = (s.setDraws d).setIoLog l := by
  unfold memRead8
  split
  · exact ⟨s.draws, s.ioLog, rfl⟩
  · exact ⟨s.draws, s.ioLog, rfl⟩
  · exact ⟨s.draws + 1, .read addr :: s.ioLog, rfl⟩
  · exact ⟨s.draws + 1, s.ioLog, rfl⟩

@[simp] theorem memRead8_a (addr : Word) (s : State) : ((memRead8 addr s).2).a = s.a := by
  obtain ⟨d, l, h⟩ := memRead8_state addr s
  rw [h]; rfl
@[simp] theorem memRead8_b (addr : Word) (s : State) : ((memRead8 addr s).2).b = s.b := by
  obtain ⟨d, l, h⟩ := memRead8_state addr s
  rw [h]; rfl
@[simp] theorem memRead8_x (addr : Word) (s : State) : ((memRead8 addr s).2).x = s.x := by
  obtain ⟨d, l, h⟩ := memRead8_state addr s
  rw [h]; rfl
@[simp] theorem memRead8_sp (addr : Word) (s : State) : ((memRead8 addr s).2).sp = s.sp := by
  obtain ⟨d, l, h⟩ := memRead8_state addr s
  rw [h]; rfl
@[simp] theorem memRead8_pc (addr : Word) (s : State) : ((memRead8 addr s).2).pc = s.pc := by
  obtain ⟨d, l, h⟩ := memRead8_state addr s
  rw [h]; rfl
@[simp] theorem memRead8_p (addr : Word) (s : State) : ((memRead8 addr s).2).p = s.p := by
  obtain ⟨d, l, h⟩ := memRead8_state addr s
  rw [h]; rfl
@[simp] theorem memRead8_mem (addr : Word) (s : State) : ((memRead8 addr s).2).mem = s.mem := by
  obtain ⟨d, l, h⟩ := memRead8_state addr s
  rw [h]; rfl
@[simp] theorem memRead8_waiting (addr : Word) (s : State) : ((memRead8 addr s).2).waiting = s.waiting := by
  obtain ⟨d, l, h⟩ := memRead8_state addr s
  rw [h]; rfl
@[simp] theorem memRead8_nmiPending (addr : Word) (s : State) : ((memRead8 addr s).2).nmiPending = s.nmiPending := by
  obtain ⟨d, l, h⟩ := memRead8_state addr s
  rw [h]; rfl
@[simp] theorem memRead8_irqLine (addr : Word) (s : State) : ((memRead8 addr s).2).irqLine = s.irqLine := by
  obtain ⟨d, l, h⟩ := memRead8_state addr s
  rw [h]; rfl
@[simp] theorem memRead8_resetLine (addr : Word) (s : State) : ((memRead8 addr s).2).resetLine = s.resetLine := by
  obtain ⟨d, l, h⟩ := memRead8_state addr s
  rw [h]; rfl
@[simp] theorem memRead8_accept (addr : Word) (s : State) : ((memRead8 addr s).2).accept = s.accept := by
  obtain ⟨d, l, h⟩ := memRead8_state addr s
  rw [h]; rfl
@[simp] theorem memRead8_moves (addr : Word) (s : State) : ((memRead8 addr s).2).moves = s.moves := by
  obtain ⟨d, l, h⟩ := memRead8_state addr s
  rw [h]; rfl
@[simp] theorem memRead8_cfg (addr : Word) (s : State) : ((memRead8 addr s).2).cfg = s.cfg := by
  obtain ⟨d, l, h⟩ := memRead8_state addr s
  rw [h]; rfl
@[simp] theorem memRead8_kindAt (addr : Word) (s : State) (adr : Word) : ((memRead8 addr s).2).kindAt adr = s.kindAt adr := by
  simp [State.kindAt]

@[simp] theorem memRead16_a (addr : Word) (s : State) : ((memRead16 addr s).2).a = s.a := by simp [memRead16]
@[simp] theorem memRead16_b (addr : Word) (s : State) : ((memRead16 addr s).2).b = s.b := by simp [memRead16]
@[simp] theorem memRead16_x (addr : Word) (s : State) : ((memRead16 addr s).2).x = s.x := by simp [memRead16]
@[simp] theorem memRead16_sp (addr : Word) (s : State) : ((memRead16 addr s).2).sp = s.sp := by simp [memRead16]
@[simp] theorem memRead16_pc (addr : Word) (s : State) : ((memRead16 addr s).2).pc = s.pc := by simp [memRead16]
@[simp] theorem memRead16_p (addr : Word) (s : State) : ((memRead16 addr s).2).p = s.p := by simp [memRead16]
@[simp] theorem memRead16_mem (addr : Word) (s : State) : ((memRead16 addr s).2).mem = s.mem := by simp [memRead16]
@[simp] theorem memRead16_waiting (addr : Word) (s : State) : ((memRead16 addr s).2).waiting = s.waiting := by simp [memRead16]
@[simp] theorem memRead16_nmiPending (addr : Word) (s : State) : ((memRead16 addr s).2).nmiPending = s.nmiPending := by simp [memRead16]
@[simp] theorem memRead16_irqLine (addr : Word) (s : State) : ((memRead16 addr s).2).irqLine = s.irqLine := by simp [memRead16]
@[simp] theorem memRead16_resetLine (addr : Word) (s : State) : ((memRead16 addr s).2).resetLine = s.resetLine := by simp [memRead16]
@[simp] theorem memRead16_accept (addr : Word) (s : State) : ((memRead16 addr s).2).accept = s.accept := by simp [memRead16]
@[simp] theorem memRead16_moves (addr : Word) (s : State) : ((memRead16 addr s).2).moves = s.moves := by simp [memRead16]
@[simp] theorem memRead16_cfg (addr : Word) (s : State) : ((memRead16 addr s).2).cfg = s.cfg := by simp [memRead16]
@[simp] theorem memRead16_kindAt (addr : Word) (s : State) (adr : Word) : ((memRead16 addr s).2).kindAt adr = s.kindAt adr := by
  simp [State.kindAt]

/-- Where memory answers, a byte read gives the byte and changes nothing (R58). -/
theorem memRead8_memory (addr : Word) (s : State) (h : s.answers addr = true) :
    memRead8 addr s = (s.mem.read addr, s) := by
  unfold memRead8
  simp only [State.answers, Bool.or_eq_true, beq_iff_eq] at h
  rcases h with h | h <;> simp [h]

/-- Where memory answers at both addresses, a 16-bit read gives the two bytes and changes nothing (R12, R58). -/
theorem memRead16_memory (addr : Word) (s : State) (h : s.answers addr = true) (h' : s.answers (addr + 1) = true) :
    memRead16 addr s = (joinBytes (s.mem.read addr) (s.mem.read (addr + 1)), s) := by
  simp only [memRead16, memRead8_memory _ _ h, memRead8_memory _ _ h']

/-- A read of an `io` address draws a byte and records the event (R58). -/
theorem memRead8_io (addr : Word) (s : State) (h : s.kindAt addr = .io) :
    memRead8 addr s = (Config.freeByte s.draws, (s.record (.read addr)).setDraws (s.draws + 1)) := by
  simp [memRead8, h, drawByte]

/-- A read of an `unmapped` address draws a byte (R58). -/
theorem memRead8_unmapped (addr : Word) (s : State) (h : s.kindAt addr = .unmapped) :
    memRead8 addr s = (Config.freeByte s.draws, s.setDraws (s.draws + 1)) := by
  simp [memRead8, h, drawByte]

/-! ## Writes: only memory and the list of events can change -/

/-- A byte write changes nothing but memory and the events. -/
theorem memWrite8_state (addr : Word) (v : Byte) (s : State) :
    ∃ m l, memWrite8 addr v s = (s.setMem m).setIoLog l := by
  unfold memWrite8
  split
  · exact ⟨s.mem.write addr v, s.ioLog, rfl⟩
  · exact ⟨s.mem, s.ioLog, rfl⟩
  · exact ⟨s.mem, .write addr v :: s.ioLog, rfl⟩
  · exact ⟨s.mem, s.ioLog, rfl⟩

@[simp] theorem memWrite8_a (addr : Word) (v : Byte) (s : State) : (memWrite8 addr v s).a = s.a := by
  obtain ⟨m, l, h⟩ := memWrite8_state addr v s
  rw [h]; rfl
@[simp] theorem memWrite8_b (addr : Word) (v : Byte) (s : State) : (memWrite8 addr v s).b = s.b := by
  obtain ⟨m, l, h⟩ := memWrite8_state addr v s
  rw [h]; rfl
@[simp] theorem memWrite8_x (addr : Word) (v : Byte) (s : State) : (memWrite8 addr v s).x = s.x := by
  obtain ⟨m, l, h⟩ := memWrite8_state addr v s
  rw [h]; rfl
@[simp] theorem memWrite8_sp (addr : Word) (v : Byte) (s : State) : (memWrite8 addr v s).sp = s.sp := by
  obtain ⟨m, l, h⟩ := memWrite8_state addr v s
  rw [h]; rfl
@[simp] theorem memWrite8_pc (addr : Word) (v : Byte) (s : State) : (memWrite8 addr v s).pc = s.pc := by
  obtain ⟨m, l, h⟩ := memWrite8_state addr v s
  rw [h]; rfl
@[simp] theorem memWrite8_p (addr : Word) (v : Byte) (s : State) : (memWrite8 addr v s).p = s.p := by
  obtain ⟨m, l, h⟩ := memWrite8_state addr v s
  rw [h]; rfl
@[simp] theorem memWrite8_waiting (addr : Word) (v : Byte) (s : State) : (memWrite8 addr v s).waiting = s.waiting := by
  obtain ⟨m, l, h⟩ := memWrite8_state addr v s
  rw [h]; rfl
@[simp] theorem memWrite8_nmiPending (addr : Word) (v : Byte) (s : State) : (memWrite8 addr v s).nmiPending = s.nmiPending := by
  obtain ⟨m, l, h⟩ := memWrite8_state addr v s
  rw [h]; rfl
@[simp] theorem memWrite8_irqLine (addr : Word) (v : Byte) (s : State) : (memWrite8 addr v s).irqLine = s.irqLine := by
  obtain ⟨m, l, h⟩ := memWrite8_state addr v s
  rw [h]; rfl
@[simp] theorem memWrite8_resetLine (addr : Word) (v : Byte) (s : State) : (memWrite8 addr v s).resetLine = s.resetLine := by
  obtain ⟨m, l, h⟩ := memWrite8_state addr v s
  rw [h]; rfl
@[simp] theorem memWrite8_accept (addr : Word) (v : Byte) (s : State) : (memWrite8 addr v s).accept = s.accept := by
  obtain ⟨m, l, h⟩ := memWrite8_state addr v s
  rw [h]; rfl
@[simp] theorem memWrite8_moves (addr : Word) (v : Byte) (s : State) : (memWrite8 addr v s).moves = s.moves := by
  obtain ⟨m, l, h⟩ := memWrite8_state addr v s
  rw [h]; rfl
@[simp] theorem memWrite8_draws (addr : Word) (v : Byte) (s : State) : (memWrite8 addr v s).draws = s.draws := by
  obtain ⟨m, l, h⟩ := memWrite8_state addr v s
  rw [h]; rfl
@[simp] theorem memWrite8_cfg (addr : Word) (v : Byte) (s : State) : (memWrite8 addr v s).cfg = s.cfg := by
  obtain ⟨m, l, h⟩ := memWrite8_state addr v s
  rw [h]; rfl
@[simp] theorem memWrite8_kindAt (addr : Word) (v : Byte) (s : State) (adr : Word) : (memWrite8 addr v s).kindAt adr = s.kindAt adr := by
  simp [State.kindAt]

@[simp] theorem memWrite16_a (addr v : Word) (s : State) : (memWrite16 addr v s).a = s.a := by simp [memWrite16]
@[simp] theorem memWrite16_b (addr v : Word) (s : State) : (memWrite16 addr v s).b = s.b := by simp [memWrite16]
@[simp] theorem memWrite16_x (addr v : Word) (s : State) : (memWrite16 addr v s).x = s.x := by simp [memWrite16]
@[simp] theorem memWrite16_sp (addr v : Word) (s : State) : (memWrite16 addr v s).sp = s.sp := by simp [memWrite16]
@[simp] theorem memWrite16_pc (addr v : Word) (s : State) : (memWrite16 addr v s).pc = s.pc := by simp [memWrite16]
@[simp] theorem memWrite16_p (addr v : Word) (s : State) : (memWrite16 addr v s).p = s.p := by simp [memWrite16]
@[simp] theorem memWrite16_waiting (addr v : Word) (s : State) : (memWrite16 addr v s).waiting = s.waiting := by simp [memWrite16]
@[simp] theorem memWrite16_nmiPending (addr v : Word) (s : State) : (memWrite16 addr v s).nmiPending = s.nmiPending := by simp [memWrite16]
@[simp] theorem memWrite16_irqLine (addr v : Word) (s : State) : (memWrite16 addr v s).irqLine = s.irqLine := by simp [memWrite16]
@[simp] theorem memWrite16_resetLine (addr v : Word) (s : State) : (memWrite16 addr v s).resetLine = s.resetLine := by simp [memWrite16]
@[simp] theorem memWrite16_accept (addr v : Word) (s : State) : (memWrite16 addr v s).accept = s.accept := by simp [memWrite16]
@[simp] theorem memWrite16_moves (addr v : Word) (s : State) : (memWrite16 addr v s).moves = s.moves := by simp [memWrite16]
@[simp] theorem memWrite16_draws (addr v : Word) (s : State) : (memWrite16 addr v s).draws = s.draws := by simp [memWrite16]
@[simp] theorem memWrite16_cfg (addr v : Word) (s : State) : (memWrite16 addr v s).cfg = s.cfg := by simp [memWrite16]
@[simp] theorem memWrite16_kindAt (addr v : Word) (s : State) (adr : Word) : (memWrite16 addr v s).kindAt adr = s.kindAt adr := by
  simp [State.kindAt]

/-- What a byte write leaves in memory: the byte at a `ram` address, everything else as it was (R58). -/
theorem memWrite8_mem (addr : Word) (v : Byte) (s : State) :
    (memWrite8 addr v s).mem = if s.kindAt addr = .ram then s.mem.write addr v else s.mem := by
  unfold memWrite8
  split <;> simp [*]

/-- Reading any address after a byte write (R58). -/
theorem memWrite8_read (addr : Word) (v : Byte) (s : State) (adr : Word) :
    (memWrite8 addr v s).mem.read adr =
      if s.kindAt addr = .ram ∧ adr = addr then v else s.mem.read adr := by
  rw [memWrite8_mem]
  by_cases hk : s.kindAt addr = .ram
  · by_cases ha : adr = addr
    · subst ha; simp [hk]
    · simp [hk, ha, Memory.read_write_other _ _ _ _ ha]
  · simp [hk]

/-- A byte write keeps the canonical form of memory. -/
theorem memWrite8_wf (addr : Word) (v : Byte) (s : State) (h : s.mem.wf) : (memWrite8 addr v s).mem.wf := by
  rw [memWrite8_mem]
  split
  · exact Memory.write_wf _ _ _ h
  · exact h

/-- A 16-bit write keeps the canonical form of memory. -/
theorem memWrite16_wf (addr v : Word) (s : State) (h : s.mem.wf) : (memWrite16 addr v s).mem.wf :=
  memWrite8_wf _ _ _ (memWrite8_wf _ _ _ h)

/-! ## The stack -/

@[simp] theorem push8_a (v : Byte) (s : State) : (push8 v s).a = s.a := by
  unfold push8; split <;> simp
@[simp] theorem push8_b (v : Byte) (s : State) : (push8 v s).b = s.b := by
  unfold push8; split <;> simp
@[simp] theorem push8_x (v : Byte) (s : State) : (push8 v s).x = s.x := by
  unfold push8; split <;> simp
@[simp] theorem push8_pc (v : Byte) (s : State) : (push8 v s).pc = s.pc := by
  unfold push8; split <;> simp
@[simp] theorem push8_p (v : Byte) (s : State) : (push8 v s).p = s.p := by
  unfold push8; split <;> simp
@[simp] theorem push8_waiting (v : Byte) (s : State) : (push8 v s).waiting = s.waiting := by
  unfold push8; split <;> simp
@[simp] theorem push8_nmiPending (v : Byte) (s : State) : (push8 v s).nmiPending = s.nmiPending := by
  unfold push8; split <;> simp
@[simp] theorem push8_irqLine (v : Byte) (s : State) : (push8 v s).irqLine = s.irqLine := by
  unfold push8; split <;> simp
@[simp] theorem push8_resetLine (v : Byte) (s : State) : (push8 v s).resetLine = s.resetLine := by
  unfold push8; split <;> simp
@[simp] theorem push8_accept (v : Byte) (s : State) : (push8 v s).accept = s.accept := by
  unfold push8; split <;> simp
@[simp] theorem push8_moves (v : Byte) (s : State) : (push8 v s).moves = s.moves := by
  unfold push8; split <;> simp
@[simp] theorem push8_draws (v : Byte) (s : State) : (push8 v s).draws = s.draws := by
  unfold push8; split <;> simp
@[simp] theorem push8_cfg (v : Byte) (s : State) : (push8 v s).cfg = s.cfg := by
  unfold push8; split <;> simp
@[simp] theorem push8_kindAt (v : Byte) (s : State) (adr : Word) : (push8 v s).kindAt adr = s.kindAt adr := by
  simp [State.kindAt]

/-- A push lowers S by one under either convention (R13, R24). -/
@[simp] theorem push8_sp (v : Byte) (s : State) : (push8 v s).sp = s.sp - 1 := by
  unfold push8; split <;> simp

/-- A push stores its byte at `pushAddr` and nowhere else (R13). -/
theorem push8_mem (v : Byte) (s : State) :
    (push8 v s).mem = (memWrite8 (pushAddr s.cfg.stack s.sp) v s).mem := by
  unfold push8
  split
  · rename_i hc; rw [hc, memWrite8_mem, memWrite8_mem]; rfl
  · rename_i hc; rw [hc]; simp

/-- Reading any address after a push. -/
theorem push8_read (v : Byte) (s : State) (adr : Word) :
    (push8 v s).mem.read adr =
      if s.kindAt (pushAddr s.cfg.stack s.sp) = .ram ∧ adr = pushAddr s.cfg.stack s.sp then v
      else s.mem.read adr := by
  rw [push8_mem, memWrite8_read]

/-- A push keeps the canonical form of memory. -/
theorem push8_wf (v : Byte) (s : State) (h : s.mem.wf) : (push8 v s).mem.wf := by
  rw [push8_mem]; exact memWrite8_wf _ _ _ h

@[simp] theorem push16_a (v : Word) (s : State) : (push16 v s).a = s.a := by simp [push16]
@[simp] theorem push16_b (v : Word) (s : State) : (push16 v s).b = s.b := by simp [push16]
@[simp] theorem push16_x (v : Word) (s : State) : (push16 v s).x = s.x := by simp [push16]
@[simp] theorem push16_pc (v : Word) (s : State) : (push16 v s).pc = s.pc := by simp [push16]
@[simp] theorem push16_p (v : Word) (s : State) : (push16 v s).p = s.p := by simp [push16]
@[simp] theorem push16_waiting (v : Word) (s : State) : (push16 v s).waiting = s.waiting := by simp [push16]
@[simp] theorem push16_nmiPending (v : Word) (s : State) : (push16 v s).nmiPending = s.nmiPending := by simp [push16]
@[simp] theorem push16_irqLine (v : Word) (s : State) : (push16 v s).irqLine = s.irqLine := by simp [push16]
@[simp] theorem push16_resetLine (v : Word) (s : State) : (push16 v s).resetLine = s.resetLine := by simp [push16]
@[simp] theorem push16_accept (v : Word) (s : State) : (push16 v s).accept = s.accept := by simp [push16]
@[simp] theorem push16_moves (v : Word) (s : State) : (push16 v s).moves = s.moves := by simp [push16]
@[simp] theorem push16_draws (v : Word) (s : State) : (push16 v s).draws = s.draws := by simp [push16]
@[simp] theorem push16_cfg (v : Word) (s : State) : (push16 v s).cfg = s.cfg := by simp [push16]
@[simp] theorem push16_kindAt (v : Word) (s : State) (adr : Word) : (push16 v s).kindAt adr = s.kindAt adr := by
  simp [State.kindAt]

/-- A 16-bit push lowers S by two (R13). -/
@[simp] theorem push16_sp (v : Word) (s : State) : (push16 v s).sp = s.sp - 2 := by
  simp only [push16, push8_sp]; ring

/-- A 16-bit push keeps the canonical form of memory. -/
theorem push16_wf (v : Word) (s : State) (h : s.mem.wf) : (push16 v s).mem.wf :=
  push8_wf _ _ (push8_wf _ _ h)

@[simp] theorem pull8_a (s : State) : ((pull8 s).2).a = s.a := by
  unfold pull8; split <;> simp
@[simp] theorem pull8_b (s : State) : ((pull8 s).2).b = s.b := by
  unfold pull8; split <;> simp
@[simp] theorem pull8_x (s : State) : ((pull8 s).2).x = s.x := by
  unfold pull8; split <;> simp
@[simp] theorem pull8_pc (s : State) : ((pull8 s).2).pc = s.pc := by
  unfold pull8; split <;> simp
@[simp] theorem pull8_p (s : State) : ((pull8 s).2).p = s.p := by
  unfold pull8; split <;> simp
@[simp] theorem pull8_mem (s : State) : ((pull8 s).2).mem = s.mem := by
  unfold pull8; split <;> simp
@[simp] theorem pull8_waiting (s : State) : ((pull8 s).2).waiting = s.waiting := by
  unfold pull8; split <;> simp
@[simp] theorem pull8_nmiPending (s : State) : ((pull8 s).2).nmiPending = s.nmiPending := by
  unfold pull8; split <;> simp
@[simp] theorem pull8_irqLine (s : State) : ((pull8 s).2).irqLine = s.irqLine := by
  unfold pull8; split <;> simp
@[simp] theorem pull8_resetLine (s : State) : ((pull8 s).2).resetLine = s.resetLine := by
  unfold pull8; split <;> simp
@[simp] theorem pull8_accept (s : State) : ((pull8 s).2).accept = s.accept := by
  unfold pull8; split <;> simp
@[simp] theorem pull8_moves (s : State) : ((pull8 s).2).moves = s.moves := by
  unfold pull8; split <;> simp
@[simp] theorem pull8_cfg (s : State) : ((pull8 s).2).cfg = s.cfg := by
  unfold pull8; split <;> simp
@[simp] theorem pull8_kindAt (s : State) (adr : Word) : ((pull8 s).2).kindAt adr = s.kindAt adr := by
  simp [State.kindAt]

/-- A pull raises S by one under either convention (R13, R24). -/
@[simp] theorem pull8_sp (s : State) : (pull8 s).2.sp = s.sp + 1 := by
  unfold pull8; split <;> simp

/-- Where memory answers, a pull gives the byte at `pullAddr` and changes S alone (R13). -/
theorem pull8_memory (s : State) (h : s.answers (pullAddr s.cfg.stack s.sp) = true) :
    pull8 s = (s.mem.read (pullAddr s.cfg.stack s.sp), s.setSP (s.sp + 1)) := by
  unfold pull8
  split
  · rename_i hc; rw [hc] at h; simp [memRead8_memory _ _ h, hc]
  · rename_i hc; rw [hc] at h
    rw [memRead8_memory _ (s.setSP (s.sp + 1)) h]; simp [hc]

@[simp] theorem pull16_a (s : State) : ((pull16 s).2).a = s.a := by simp [pull16]
@[simp] theorem pull16_b (s : State) : ((pull16 s).2).b = s.b := by simp [pull16]
@[simp] theorem pull16_x (s : State) : ((pull16 s).2).x = s.x := by simp [pull16]
@[simp] theorem pull16_pc (s : State) : ((pull16 s).2).pc = s.pc := by simp [pull16]
@[simp] theorem pull16_p (s : State) : ((pull16 s).2).p = s.p := by simp [pull16]
@[simp] theorem pull16_mem (s : State) : ((pull16 s).2).mem = s.mem := by simp [pull16]
@[simp] theorem pull16_waiting (s : State) : ((pull16 s).2).waiting = s.waiting := by simp [pull16]
@[simp] theorem pull16_nmiPending (s : State) : ((pull16 s).2).nmiPending = s.nmiPending := by simp [pull16]
@[simp] theorem pull16_irqLine (s : State) : ((pull16 s).2).irqLine = s.irqLine := by simp [pull16]
@[simp] theorem pull16_resetLine (s : State) : ((pull16 s).2).resetLine = s.resetLine := by simp [pull16]
@[simp] theorem pull16_accept (s : State) : ((pull16 s).2).accept = s.accept := by simp [pull16]
@[simp] theorem pull16_moves (s : State) : ((pull16 s).2).moves = s.moves := by simp [pull16]
@[simp] theorem pull16_cfg (s : State) : ((pull16 s).2).cfg = s.cfg := by simp [pull16]
@[simp] theorem pull16_kindAt (s : State) (adr : Word) : ((pull16 s).2).kindAt adr = s.kindAt adr := by
  simp [State.kindAt]

/-- A 16-bit pull raises S by two (R13). -/
@[simp] theorem pull16_sp (s : State) : (pull16 s).2.sp = s.sp + 2 := by
  simp only [pull16, pull8_sp]; ring

/-! ## The register frame -/

@[simp] theorem stackRegs_a (s : State) : (stackRegs s).a = s.a := by simp [stackRegs]
@[simp] theorem stackRegs_b (s : State) : (stackRegs s).b = s.b := by simp [stackRegs]
@[simp] theorem stackRegs_x (s : State) : (stackRegs s).x = s.x := by simp [stackRegs]
@[simp] theorem stackRegs_pc (s : State) : (stackRegs s).pc = s.pc := by simp [stackRegs]
@[simp] theorem stackRegs_p (s : State) : (stackRegs s).p = s.p := by simp [stackRegs]
@[simp] theorem stackRegs_waiting (s : State) : (stackRegs s).waiting = s.waiting := by simp [stackRegs]
@[simp] theorem stackRegs_nmiPending (s : State) : (stackRegs s).nmiPending = s.nmiPending := by simp [stackRegs]
@[simp] theorem stackRegs_irqLine (s : State) : (stackRegs s).irqLine = s.irqLine := by simp [stackRegs]
@[simp] theorem stackRegs_resetLine (s : State) : (stackRegs s).resetLine = s.resetLine := by simp [stackRegs]
@[simp] theorem stackRegs_accept (s : State) : (stackRegs s).accept = s.accept := by simp [stackRegs]
@[simp] theorem stackRegs_moves (s : State) : (stackRegs s).moves = s.moves := by simp [stackRegs]
@[simp] theorem stackRegs_draws (s : State) : (stackRegs s).draws = s.draws := by simp [stackRegs]
@[simp] theorem stackRegs_cfg (s : State) : (stackRegs s).cfg = s.cfg := by simp [stackRegs]
@[simp] theorem stackRegs_kindAt (s : State) (adr : Word) : (stackRegs s).kindAt adr = s.kindAt adr := by
  simp [State.kindAt]

/-- The frame is seven bytes (R14). -/
@[simp] theorem stackRegs_sp (s : State) : (stackRegs s).sp = s.sp - 7 := by
  simp only [stackRegs, push8_sp, push16_sp]; ring

/-- Stacking the registers keeps the canonical form of memory. -/
theorem stackRegs_wf (s : State) (h : s.mem.wf) : (stackRegs s).mem.wf :=
  push8_wf _ _ (push8_wf _ _ (push8_wf _ _ (push16_wf _ _ (push16_wf _ _ h))))

@[simp] theorem unstackRegs_mem (s : State) : (unstackRegs s).mem = s.mem := by simp [unstackRegs]
@[simp] theorem unstackRegs_waiting (s : State) : (unstackRegs s).waiting = s.waiting := by simp [unstackRegs]
@[simp] theorem unstackRegs_nmiPending (s : State) : (unstackRegs s).nmiPending = s.nmiPending := by simp [unstackRegs]
@[simp] theorem unstackRegs_irqLine (s : State) : (unstackRegs s).irqLine = s.irqLine := by simp [unstackRegs]
@[simp] theorem unstackRegs_resetLine (s : State) : (unstackRegs s).resetLine = s.resetLine := by simp [unstackRegs]
@[simp] theorem unstackRegs_accept (s : State) : (unstackRegs s).accept = s.accept := by simp [unstackRegs]
@[simp] theorem unstackRegs_moves (s : State) : (unstackRegs s).moves = s.moves := by simp [unstackRegs]
@[simp] theorem unstackRegs_cfg (s : State) : (unstackRegs s).cfg = s.cfg := by simp [unstackRegs]
@[simp] theorem unstackRegs_kindAt (s : State) (adr : Word) : (unstackRegs s).kindAt adr = s.kindAt adr := by
  simp [State.kindAt]

/-- The return raises S by seven (R250, R307). -/
@[simp] theorem unstackRegs_sp (s : State) : (unstackRegs s).sp = s.sp + 7 := by
  simp only [unstackRegs, State.setPC_sp, State.setX_sp, State.setA_sp, State.setB_sp, State.setP_sp, pull8_sp, pull16_sp]
  ring

/-! ## Exceptions and reset -/

@[simp] theorem enterHandler_a (vec : Word) (s : State) : (enterHandler vec s).a = s.a := by simp [enterHandler]
@[simp] theorem enterHandler_b (vec : Word) (s : State) : (enterHandler vec s).b = s.b := by simp [enterHandler]
@[simp] theorem enterHandler_x (vec : Word) (s : State) : (enterHandler vec s).x = s.x := by simp [enterHandler]
@[simp] theorem enterHandler_sp (vec : Word) (s : State) : (enterHandler vec s).sp = s.sp := by simp [enterHandler]
@[simp] theorem enterHandler_mem (vec : Word) (s : State) : (enterHandler vec s).mem = s.mem := by simp [enterHandler]
@[simp] theorem enterHandler_waiting (vec : Word) (s : State) : (enterHandler vec s).waiting = s.waiting := by simp [enterHandler]
@[simp] theorem enterHandler_nmiPending (vec : Word) (s : State) : (enterHandler vec s).nmiPending = s.nmiPending := by simp [enterHandler]
@[simp] theorem enterHandler_irqLine (vec : Word) (s : State) : (enterHandler vec s).irqLine = s.irqLine := by simp [enterHandler]
@[simp] theorem enterHandler_resetLine (vec : Word) (s : State) : (enterHandler vec s).resetLine = s.resetLine := by simp [enterHandler]
@[simp] theorem enterHandler_accept (vec : Word) (s : State) : (enterHandler vec s).accept = s.accept := by simp [enterHandler]
@[simp] theorem enterHandler_moves (vec : Word) (s : State) : (enterHandler vec s).moves = s.moves := by simp [enterHandler]
@[simp] theorem enterHandler_cfg (vec : Word) (s : State) : (enterHandler vec s).cfg = s.cfg := by simp [enterHandler]
@[simp] theorem enterHandler_kindAt (vec : Word) (s : State) (adr : Word) : (enterHandler vec s).kindAt adr = s.kindAt adr := by
  simp [State.kindAt]

/-- Entering a handler sets I and no other flag (R304). -/
@[simp] theorem enterHandler_p (vec : Word) (s : State) : (enterHandler vec s).p = { s.p with i := true } := by
  simp [enterHandler]

/-- Where memory answers at the vector, PC takes the word there (R306). -/
theorem enterHandler_pc (vec : Word) (s : State) (h : s.answers vec = true) (h' : s.answers (vec + 1) = true) :
    (enterHandler vec s).pc = joinBytes (s.mem.read vec) (s.mem.read (vec + 1)) := by
  simp [enterHandler, memRead16_memory vec (s.setI true) h h']

@[simp] theorem takeInterrupt_a (vec : Word) (s : State) : (takeInterrupt vec s).a = s.a := by
  unfold takeInterrupt; dsimp only; split <;> split <;> simp
@[simp] theorem takeInterrupt_b (vec : Word) (s : State) : (takeInterrupt vec s).b = s.b := by
  unfold takeInterrupt; dsimp only; split <;> split <;> simp
@[simp] theorem takeInterrupt_x (vec : Word) (s : State) : (takeInterrupt vec s).x = s.x := by
  unfold takeInterrupt; dsimp only; split <;> split <;> simp
@[simp] theorem takeInterrupt_irqLine (vec : Word) (s : State) : (takeInterrupt vec s).irqLine = s.irqLine := by
  unfold takeInterrupt; dsimp only; split <;> split <;> simp
@[simp] theorem takeInterrupt_resetLine (vec : Word) (s : State) : (takeInterrupt vec s).resetLine = s.resetLine := by
  unfold takeInterrupt; dsimp only; split <;> split <;> simp
@[simp] theorem takeInterrupt_accept (vec : Word) (s : State) : (takeInterrupt vec s).accept = s.accept := by
  unfold takeInterrupt; dsimp only; split <;> split <;> simp
@[simp] theorem takeInterrupt_moves (vec : Word) (s : State) : (takeInterrupt vec s).moves = s.moves := by
  unfold takeInterrupt; dsimp only; split <;> split <;> simp
@[simp] theorem takeInterrupt_cfg (vec : Word) (s : State) : (takeInterrupt vec s).cfg = s.cfg := by
  unfold takeInterrupt; dsimp only; split <;> split <;> simp
@[simp] theorem takeInterrupt_kindAt (vec : Word) (s : State) (adr : Word) : (takeInterrupt vec s).kindAt adr = s.kindAt adr := by
  simp [State.kindAt]

/-- An interrupt entry ends a wait (R304). -/
@[simp] theorem takeInterrupt_waiting (vec : Word) (s : State) : (takeInterrupt vec s).waiting = false := by
  unfold takeInterrupt; dsimp only; split <;> split <;> simp

/-- An interrupt entry sets I and no other flag (R304). -/
@[simp] theorem takeInterrupt_p (vec : Word) (s : State) : (takeInterrupt vec s).p = { s.p with i := true } := by
  unfold takeInterrupt; dsimp only; split <;> split <;> simp

/-- Entry through the NMI vector clears `nmi_pending`; no other does (R304). -/
theorem takeInterrupt_nmiPending (vec : Word) (s : State) :
    (takeInterrupt vec s).nmiPending = if vec = vecNmi then false else s.nmiPending := by
  unfold takeInterrupt; dsimp only; split <;> split <;> simp

/-- An interrupt entry keeps the canonical form of memory. -/
theorem takeInterrupt_wf (vec : Word) (s : State) (h : s.mem.wf) : (takeInterrupt vec s).mem.wf := by
  have := stackRegs_wf s h
  unfold takeInterrupt; dsimp only; split <;> split <;> simpa using (by assumption)

@[simp] theorem drawWord_a (s : State) : ((drawWord s).2).a = s.a := by simp [drawWord]
@[simp] theorem drawWord_b (s : State) : ((drawWord s).2).b = s.b := by simp [drawWord]
@[simp] theorem drawWord_x (s : State) : ((drawWord s).2).x = s.x := by simp [drawWord]
@[simp] theorem drawWord_sp (s : State) : ((drawWord s).2).sp = s.sp := by simp [drawWord]
@[simp] theorem drawWord_pc (s : State) : ((drawWord s).2).pc = s.pc := by simp [drawWord]
@[simp] theorem drawWord_p (s : State) : ((drawWord s).2).p = s.p := by simp [drawWord]
@[simp] theorem drawWord_mem (s : State) : ((drawWord s).2).mem = s.mem := by simp [drawWord]
@[simp] theorem drawWord_waiting (s : State) : ((drawWord s).2).waiting = s.waiting := by simp [drawWord]
@[simp] theorem drawWord_nmiPending (s : State) : ((drawWord s).2).nmiPending = s.nmiPending := by simp [drawWord]
@[simp] theorem drawWord_irqLine (s : State) : ((drawWord s).2).irqLine = s.irqLine := by simp [drawWord]
@[simp] theorem drawWord_resetLine (s : State) : ((drawWord s).2).resetLine = s.resetLine := by simp [drawWord]
@[simp] theorem drawWord_accept (s : State) : ((drawWord s).2).accept = s.accept := by simp [drawWord]
@[simp] theorem drawWord_moves (s : State) : ((drawWord s).2).moves = s.moves := by simp [drawWord]
@[simp] theorem drawWord_ioLog (s : State) : ((drawWord s).2).ioLog = s.ioLog := by simp [drawWord]
@[simp] theorem drawWord_cfg (s : State) : ((drawWord s).2).cfg = s.cfg := by simp [drawWord]
@[simp] theorem drawWord_kindAt (s : State) (adr : Word) : ((drawWord s).2).kindAt adr = s.kindAt adr := by
  simp [State.kindAt]

@[simp] theorem drawRegisters_pc (s : State) : (drawRegisters s).pc = s.pc := by simp [drawRegisters]
@[simp] theorem drawRegisters_mem (s : State) : (drawRegisters s).mem = s.mem := by simp [drawRegisters]
@[simp] theorem drawRegisters_waiting (s : State) : (drawRegisters s).waiting = s.waiting := by simp [drawRegisters]
@[simp] theorem drawRegisters_nmiPending (s : State) : (drawRegisters s).nmiPending = s.nmiPending := by simp [drawRegisters]
@[simp] theorem drawRegisters_irqLine (s : State) : (drawRegisters s).irqLine = s.irqLine := by simp [drawRegisters]
@[simp] theorem drawRegisters_resetLine (s : State) : (drawRegisters s).resetLine = s.resetLine := by simp [drawRegisters]
@[simp] theorem drawRegisters_accept (s : State) : (drawRegisters s).accept = s.accept := by simp [drawRegisters]
@[simp] theorem drawRegisters_moves (s : State) : (drawRegisters s).moves = s.moves := by simp [drawRegisters]
@[simp] theorem drawRegisters_ioLog (s : State) : (drawRegisters s).ioLog = s.ioLog := by simp [drawRegisters]
@[simp] theorem drawRegisters_cfg (s : State) : (drawRegisters s).cfg = s.cfg := by simp [drawRegisters]
@[simp] theorem drawRegisters_kindAt (s : State) (adr : Word) : (drawRegisters s).kindAt adr = s.kindAt adr := by
  simp [State.kindAt]

@[simp] theorem resetSeq_mem (s : State) : (resetSeq s).mem = s.mem := by
  unfold resetSeq; split <;> simp
@[simp] theorem resetSeq_irqLine (s : State) : (resetSeq s).irqLine = s.irqLine := by
  unfold resetSeq; split <;> simp
@[simp] theorem resetSeq_resetLine (s : State) : (resetSeq s).resetLine = s.resetLine := by
  unfold resetSeq; split <;> simp
@[simp] theorem resetSeq_accept (s : State) : (resetSeq s).accept = s.accept := by
  unfold resetSeq; split <;> simp
@[simp] theorem resetSeq_moves (s : State) : (resetSeq s).moves = s.moves := by
  unfold resetSeq; split <;> simp
@[simp] theorem resetSeq_cfg (s : State) : (resetSeq s).cfg = s.cfg := by
  unfold resetSeq; split <;> simp
@[simp] theorem resetSeq_kindAt (s : State) (adr : Word) : (resetSeq s).kindAt adr = s.kindAt adr := by
  simp [State.kindAt]

/-- Reset ends a wait (R350). -/
@[simp] theorem resetSeq_waiting (s : State) : (resetSeq s).waiting = false := by
  unfold resetSeq; split <;> simp

/-- Reset forgets a requested non-maskable interrupt (R350). -/
@[simp] theorem resetSeq_nmiPending (s : State) : (resetSeq s).nmiPending = false := by
  unfold resetSeq; split <;> simp

/-- Reset masks the hardware interrupt (R350). -/
@[simp] theorem resetSeq_i (s : State) : (resetSeq s).p.i = true := by
  unfold resetSeq; split <;> simp

/-! ## Fetching -/

@[simp] theorem fetch8_a (s : State) : ((fetch8 s).2).a = s.a := by simp [fetch8]
@[simp] theorem fetch8_b (s : State) : ((fetch8 s).2).b = s.b := by simp [fetch8]
@[simp] theorem fetch8_x (s : State) : ((fetch8 s).2).x = s.x := by simp [fetch8]
@[simp] theorem fetch8_sp (s : State) : ((fetch8 s).2).sp = s.sp := by simp [fetch8]
@[simp] theorem fetch8_p (s : State) : ((fetch8 s).2).p = s.p := by simp [fetch8]
@[simp] theorem fetch8_mem (s : State) : ((fetch8 s).2).mem = s.mem := by simp [fetch8]
@[simp] theorem fetch8_waiting (s : State) : ((fetch8 s).2).waiting = s.waiting := by simp [fetch8]
@[simp] theorem fetch8_nmiPending (s : State) : ((fetch8 s).2).nmiPending = s.nmiPending := by simp [fetch8]
@[simp] theorem fetch8_irqLine (s : State) : ((fetch8 s).2).irqLine = s.irqLine := by simp [fetch8]
@[simp] theorem fetch8_resetLine (s : State) : ((fetch8 s).2).resetLine = s.resetLine := by simp [fetch8]
@[simp] theorem fetch8_accept (s : State) : ((fetch8 s).2).accept = s.accept := by simp [fetch8]
@[simp] theorem fetch8_moves (s : State) : ((fetch8 s).2).moves = s.moves := by simp [fetch8]
@[simp] theorem fetch8_cfg (s : State) : ((fetch8 s).2).cfg = s.cfg := by simp [fetch8]
@[simp] theorem fetch8_kindAt (s : State) (adr : Word) : ((fetch8 s).2).kindAt adr = s.kindAt adr := by
  simp [State.kindAt]

/-- Fetching a byte advances PC by one (R12, R25). -/
@[simp] theorem fetch8_pc (s : State) : (fetch8 s).2.pc = s.pc + 1 := by simp [fetch8]

/-- Where memory answers, a fetch gives the byte at PC and changes PC alone (R12). -/
theorem fetch8_memory (s : State) (h : s.answers s.pc = true) :
    fetch8 s = (s.mem.read s.pc, s.setPC (s.pc + 1)) := by
  simp [fetch8, memRead8_memory _ _ h]

@[simp] theorem fetch16_a (s : State) : ((fetch16 s).2).a = s.a := by simp [fetch16]
@[simp] theorem fetch16_b (s : State) : ((fetch16 s).2).b = s.b := by simp [fetch16]
@[simp] theorem fetch16_x (s : State) : ((fetch16 s).2).x = s.x := by simp [fetch16]
@[simp] theorem fetch16_sp (s : State) : ((fetch16 s).2).sp = s.sp := by simp [fetch16]
@[simp] theorem fetch16_p (s : State) : ((fetch16 s).2).p = s.p := by simp [fetch16]
@[simp] theorem fetch16_mem (s : State) : ((fetch16 s).2).mem = s.mem := by simp [fetch16]
@[simp] theorem fetch16_waiting (s : State) : ((fetch16 s).2).waiting = s.waiting := by simp [fetch16]
@[simp] theorem fetch16_nmiPending (s : State) : ((fetch16 s).2).nmiPending = s.nmiPending := by simp [fetch16]
@[simp] theorem fetch16_irqLine (s : State) : ((fetch16 s).2).irqLine = s.irqLine := by simp [fetch16]
@[simp] theorem fetch16_resetLine (s : State) : ((fetch16 s).2).resetLine = s.resetLine := by simp [fetch16]
@[simp] theorem fetch16_accept (s : State) : ((fetch16 s).2).accept = s.accept := by simp [fetch16]
@[simp] theorem fetch16_moves (s : State) : ((fetch16 s).2).moves = s.moves := by simp [fetch16]
@[simp] theorem fetch16_cfg (s : State) : ((fetch16 s).2).cfg = s.cfg := by simp [fetch16]
@[simp] theorem fetch16_kindAt (s : State) (adr : Word) : ((fetch16 s).2).kindAt adr = s.kindAt adr := by
  simp [State.kindAt]

/-- Fetching two bytes advances PC by two. -/
@[simp] theorem fetch16_pc (s : State) : (fetch16 s).2.pc = s.pc + 2 := by
  simp only [fetch16, fetch8_pc]; ring

end Sys2Proof.Machine
end

