-- ==== Sys2Proof/Laws/Operands.lean ====
section
/-!
SUPPORT. What reading and writing an operand can do (30_encoding.md R92), and the open value of V (10_state.md R33).
-/

namespace Sys2Proof.Machine

/-! ## Sources: only the count of draws and the list of events can change -/

@[simp] theorem src8_a (o : Src8) (s : State) : ((src8 o s).2).a = s.a := by
  cases o <;> simp [src8]
@[simp] theorem src8_b (o : Src8) (s : State) : ((src8 o s).2).b = s.b := by
  cases o <;> simp [src8]
@[simp] theorem src8_x (o : Src8) (s : State) : ((src8 o s).2).x = s.x := by
  cases o <;> simp [src8]
@[simp] theorem src8_sp (o : Src8) (s : State) : ((src8 o s).2).sp = s.sp := by
  cases o <;> simp [src8]
@[simp] theorem src8_pc (o : Src8) (s : State) : ((src8 o s).2).pc = s.pc := by
  cases o <;> simp [src8]
@[simp] theorem src8_p (o : Src8) (s : State) : ((src8 o s).2).p = s.p := by
  cases o <;> simp [src8]
@[simp] theorem src8_mem (o : Src8) (s : State) : ((src8 o s).2).mem = s.mem := by
  cases o <;> simp [src8]
@[simp] theorem src8_waiting (o : Src8) (s : State) : ((src8 o s).2).waiting = s.waiting := by
  cases o <;> simp [src8]
@[simp] theorem src8_nmiPending (o : Src8) (s : State) : ((src8 o s).2).nmiPending = s.nmiPending := by
  cases o <;> simp [src8]
@[simp] theorem src8_irqLine (o : Src8) (s : State) : ((src8 o s).2).irqLine = s.irqLine := by
  cases o <;> simp [src8]
@[simp] theorem src8_resetLine (o : Src8) (s : State) : ((src8 o s).2).resetLine = s.resetLine := by
  cases o <;> simp [src8]
@[simp] theorem src8_accept (o : Src8) (s : State) : ((src8 o s).2).accept = s.accept := by
  cases o <;> simp [src8]
@[simp] theorem src8_moves (o : Src8) (s : State) : ((src8 o s).2).moves = s.moves := by
  cases o <;> simp [src8]
@[simp] theorem src8_cfg (o : Src8) (s : State) : ((src8 o s).2).cfg = s.cfg := by
  cases o <;> simp [src8]
@[simp] theorem src8_kindAt (o : Src8) (s : State) (adr : Word) : ((src8 o s).2).kindAt adr = s.kindAt adr := by
  simp [State.kindAt]

@[simp] theorem src16_a (o : Src16) (s : State) : ((src16 o s).2).a = s.a := by
  cases o <;> simp [src16]
@[simp] theorem src16_b (o : Src16) (s : State) : ((src16 o s).2).b = s.b := by
  cases o <;> simp [src16]
@[simp] theorem src16_x (o : Src16) (s : State) : ((src16 o s).2).x = s.x := by
  cases o <;> simp [src16]
@[simp] theorem src16_sp (o : Src16) (s : State) : ((src16 o s).2).sp = s.sp := by
  cases o <;> simp [src16]
@[simp] theorem src16_pc (o : Src16) (s : State) : ((src16 o s).2).pc = s.pc := by
  cases o <;> simp [src16]
@[simp] theorem src16_p (o : Src16) (s : State) : ((src16 o s).2).p = s.p := by
  cases o <;> simp [src16]
@[simp] theorem src16_mem (o : Src16) (s : State) : ((src16 o s).2).mem = s.mem := by
  cases o <;> simp [src16]
@[simp] theorem src16_waiting (o : Src16) (s : State) : ((src16 o s).2).waiting = s.waiting := by
  cases o <;> simp [src16]
@[simp] theorem src16_nmiPending (o : Src16) (s : State) : ((src16 o s).2).nmiPending = s.nmiPending := by
  cases o <;> simp [src16]
@[simp] theorem src16_irqLine (o : Src16) (s : State) : ((src16 o s).2).irqLine = s.irqLine := by
  cases o <;> simp [src16]
@[simp] theorem src16_resetLine (o : Src16) (s : State) : ((src16 o s).2).resetLine = s.resetLine := by
  cases o <;> simp [src16]
@[simp] theorem src16_accept (o : Src16) (s : State) : ((src16 o s).2).accept = s.accept := by
  cases o <;> simp [src16]
@[simp] theorem src16_moves (o : Src16) (s : State) : ((src16 o s).2).moves = s.moves := by
  cases o <;> simp [src16]
@[simp] theorem src16_cfg (o : Src16) (s : State) : ((src16 o s).2).cfg = s.cfg := by
  cases o <;> simp [src16]
@[simp] theorem src16_kindAt (o : Src16) (s : State) (adr : Word) : ((src16 o s).2).kindAt adr = s.kindAt adr := by
  simp [State.kindAt]

/-- An immediate operand is the operand byte, and nothing changes (R87). -/
@[simp] theorem src8_imm (n : Byte) (s : State) : src8 (.imm n) s = (n, s) := rfl

/-- An immediate operand is the operand word, and nothing changes (R87). -/
@[simp] theorem src16_imm (nn : Word) (s : State) : src16 (.imm nn) s = (nn, s) := rfl

/-- Where memory answers, a memory operand is the byte there, and nothing changes (R92). -/
theorem src8_memory (m : Mode) (s : State) (h : s.answers (ea m s) = true) :
    src8 (.mem m) s = (s.mem.read (ea m s), s) := memRead8_memory _ _ h

/-- Where memory answers, a 16-bit memory operand is the two bytes there, and nothing changes (R92). -/
theorem src16_memory (m : Mode) (s : State) (h : s.answers (ea m s) = true) (h' : s.answers (ea m s + 1) = true) :
    src16 (.mem m) s = (joinBytes (s.mem.read (ea m s)) (s.mem.read (ea m s + 1)), s) := memRead16_memory _ _ h h'

/-! ## Destinations: only memory and the list of events can change -/

@[simp] theorem dst8_a (m : Mode) (v : Byte) (s : State) : (dst8 m v s).a = s.a := by simp [dst8]
@[simp] theorem dst8_b (m : Mode) (v : Byte) (s : State) : (dst8 m v s).b = s.b := by simp [dst8]
@[simp] theorem dst8_x (m : Mode) (v : Byte) (s : State) : (dst8 m v s).x = s.x := by simp [dst8]
@[simp] theorem dst8_sp (m : Mode) (v : Byte) (s : State) : (dst8 m v s).sp = s.sp := by simp [dst8]
@[simp] theorem dst8_pc (m : Mode) (v : Byte) (s : State) : (dst8 m v s).pc = s.pc := by simp [dst8]
@[simp] theorem dst8_p (m : Mode) (v : Byte) (s : State) : (dst8 m v s).p = s.p := by simp [dst8]
@[simp] theorem dst8_waiting (m : Mode) (v : Byte) (s : State) : (dst8 m v s).waiting = s.waiting := by simp [dst8]
@[simp] theorem dst8_nmiPending (m : Mode) (v : Byte) (s : State) : (dst8 m v s).nmiPending = s.nmiPending := by simp [dst8]
@[simp] theorem dst8_irqLine (m : Mode) (v : Byte) (s : State) : (dst8 m v s).irqLine = s.irqLine := by simp [dst8]
@[simp] theorem dst8_resetLine (m : Mode) (v : Byte) (s : State) : (dst8 m v s).resetLine = s.resetLine := by simp [dst8]
@[simp] theorem dst8_accept (m : Mode) (v : Byte) (s : State) : (dst8 m v s).accept = s.accept := by simp [dst8]
@[simp] theorem dst8_moves (m : Mode) (v : Byte) (s : State) : (dst8 m v s).moves = s.moves := by simp [dst8]
@[simp] theorem dst8_draws (m : Mode) (v : Byte) (s : State) : (dst8 m v s).draws = s.draws := by simp [dst8]
@[simp] theorem dst8_cfg (m : Mode) (v : Byte) (s : State) : (dst8 m v s).cfg = s.cfg := by simp [dst8]
@[simp] theorem dst8_kindAt (m : Mode) (v : Byte) (s : State) (adr : Word) : (dst8 m v s).kindAt adr = s.kindAt adr := by
  simp [State.kindAt]

@[simp] theorem dst16_a (m : Mode) (v : Word) (s : State) : (dst16 m v s).a = s.a := by simp [dst16]
@[simp] theorem dst16_b (m : Mode) (v : Word) (s : State) : (dst16 m v s).b = s.b := by simp [dst16]
@[simp] theorem dst16_x (m : Mode) (v : Word) (s : State) : (dst16 m v s).x = s.x := by simp [dst16]
@[simp] theorem dst16_sp (m : Mode) (v : Word) (s : State) : (dst16 m v s).sp = s.sp := by simp [dst16]
@[simp] theorem dst16_pc (m : Mode) (v : Word) (s : State) : (dst16 m v s).pc = s.pc := by simp [dst16]
@[simp] theorem dst16_p (m : Mode) (v : Word) (s : State) : (dst16 m v s).p = s.p := by simp [dst16]
@[simp] theorem dst16_waiting (m : Mode) (v : Word) (s : State) : (dst16 m v s).waiting = s.waiting := by simp [dst16]
@[simp] theorem dst16_nmiPending (m : Mode) (v : Word) (s : State) : (dst16 m v s).nmiPending = s.nmiPending := by simp [dst16]
@[simp] theorem dst16_irqLine (m : Mode) (v : Word) (s : State) : (dst16 m v s).irqLine = s.irqLine := by simp [dst16]
@[simp] theorem dst16_resetLine (m : Mode) (v : Word) (s : State) : (dst16 m v s).resetLine = s.resetLine := by simp [dst16]
@[simp] theorem dst16_accept (m : Mode) (v : Word) (s : State) : (dst16 m v s).accept = s.accept := by simp [dst16]
@[simp] theorem dst16_moves (m : Mode) (v : Word) (s : State) : (dst16 m v s).moves = s.moves := by simp [dst16]
@[simp] theorem dst16_draws (m : Mode) (v : Word) (s : State) : (dst16 m v s).draws = s.draws := by simp [dst16]
@[simp] theorem dst16_cfg (m : Mode) (v : Word) (s : State) : (dst16 m v s).cfg = s.cfg := by simp [dst16]
@[simp] theorem dst16_kindAt (m : Mode) (v : Word) (s : State) (adr : Word) : (dst16 m v s).kindAt adr = s.kindAt adr := by
  simp [State.kindAt]

theorem dst8_wf (m : Mode) (v : Byte) (s : State) (h : s.mem.wf) : (dst8 m v s).mem.wf := memWrite8_wf _ _ _ h

theorem dst16_wf (m : Mode) (v : Word) (s : State) (h : s.mem.wf) : (dst16 m v s).mem.wf := memWrite16_wf _ _ _ h

/-! ## The open V -/

@[simp] theorem unknownV_a (f : Bool) (s : State) : ((unknownV f s).2).a = s.a := by
  unfold unknownV; split <;> simp
@[simp] theorem unknownV_b (f : Bool) (s : State) : ((unknownV f s).2).b = s.b := by
  unfold unknownV; split <;> simp
@[simp] theorem unknownV_x (f : Bool) (s : State) : ((unknownV f s).2).x = s.x := by
  unfold unknownV; split <;> simp
@[simp] theorem unknownV_sp (f : Bool) (s : State) : ((unknownV f s).2).sp = s.sp := by
  unfold unknownV; split <;> simp
@[simp] theorem unknownV_pc (f : Bool) (s : State) : ((unknownV f s).2).pc = s.pc := by
  unfold unknownV; split <;> simp
@[simp] theorem unknownV_p (f : Bool) (s : State) : ((unknownV f s).2).p = s.p := by
  unfold unknownV; split <;> simp
@[simp] theorem unknownV_mem (f : Bool) (s : State) : ((unknownV f s).2).mem = s.mem := by
  unfold unknownV; split <;> simp
@[simp] theorem unknownV_waiting (f : Bool) (s : State) : ((unknownV f s).2).waiting = s.waiting := by
  unfold unknownV; split <;> simp
@[simp] theorem unknownV_nmiPending (f : Bool) (s : State) : ((unknownV f s).2).nmiPending = s.nmiPending := by
  unfold unknownV; split <;> simp
@[simp] theorem unknownV_irqLine (f : Bool) (s : State) : ((unknownV f s).2).irqLine = s.irqLine := by
  unfold unknownV; split <;> simp
@[simp] theorem unknownV_resetLine (f : Bool) (s : State) : ((unknownV f s).2).resetLine = s.resetLine := by
  unfold unknownV; split <;> simp
@[simp] theorem unknownV_accept (f : Bool) (s : State) : ((unknownV f s).2).accept = s.accept := by
  unfold unknownV; split <;> simp
@[simp] theorem unknownV_moves (f : Bool) (s : State) : ((unknownV f s).2).moves = s.moves := by
  unfold unknownV; split <;> simp
@[simp] theorem unknownV_ioLog (f : Bool) (s : State) : ((unknownV f s).2).ioLog = s.ioLog := by
  unfold unknownV; split <;> simp
@[simp] theorem unknownV_cfg (f : Bool) (s : State) : ((unknownV f s).2).cfg = s.cfg := by
  unfold unknownV; split <;> simp
@[simp] theorem unknownV_kindAt (f : Bool) (s : State) (adr : Word) : ((unknownV f s).2).kindAt adr = s.kindAt adr := by
  simp [State.kindAt]

end Sys2Proof.Machine
end

