-- ==== Sys2Proof/Laws/Flags.lean ====
section
/-!
SUPPORT. What each flag computation gives, said once over the integers (00_scope.md R15, 43_shift_rotate.md R189), and
the facts about bits, halves and signs of words that such statements rest on. None is a simp lemma: cite them.
-/

namespace Sys2Proof.Machine

/-! ## Halves of a word -/

theorem join_toNat (h l : Byte) : (joinBytes h l).toNat = 256 * h.toNat + l.toNat := by
  have := l.isLt
  have := h.isLt
  rw [joinBytes, BitVec.toNat_append, ← Nat.shiftLeft_add_eq_or_of_lt l.isLt, Nat.shiftLeft_eq]
  omega

theorem hiByte_toNat (v : Word) : (hiByte v).toNat = v.toNat / 256 := by
  have := v.isLt
  simp only [hiByte, BitVec.extractLsb'_toNat, Nat.shiftRight_eq_div_pow]
  omega

theorem loByte_toNat (v : Word) : (loByte v).toNat = v.toNat % 256 := by
  simp [loByte, BitVec.extractLsb'_toNat]

theorem join_hi_lo (v : Word) : joinBytes (hiByte v) (loByte v) = v := by
  apply BitVec.eq_of_toNat_eq
  rw [join_toNat, hiByte_toNat, loByte_toNat]
  omega

theorem hi_join (h l : Byte) : hiByte (joinBytes h l) = h := by
  apply BitVec.eq_of_toNat_eq
  rw [hiByte_toNat, join_toNat]
  have := l.isLt
  omega

theorem lo_join (h l : Byte) : loByte (joinBytes h l) = l := by
  apply BitVec.eq_of_toNat_eq
  rw [loByte_toNat, join_toNat]
  have := l.isLt
  omega

/-- `sext_16(v)` is `v` as a signed number, modulo 65536 (R9). -/
theorem sext16_eq (v : Byte) : sext16 v = BitVec.ofInt 16 v.toInt := rfl

/-- `PC + sext_16(rel)` as a number (30_encoding.md R91). -/
theorem add_sext16 (w : Word) (v : Byte) : w + sext16 v = BitVec.ofInt 16 (w.toNat + v.toInt) := by
  rw [sext16_eq, BitVec.ofInt_add]
  congr 1
  simp

/-- P pulled as a byte is the P that was pushed (00_scope.md R14). -/
theorem ofByte_toByte (u : BitVec 2) (p : CCR) : CCR.ofByte (p.toByte u) = p := by
  obtain ⟨h, i, n, z, v, c⟩ := p
  revert u h i n z v c
  decide

/-! ## Bits and signs -/

theorem neg_byte (v : Byte) : v.getLsbD 7 = decide (v.toInt < 0) := by
  rw [BitVec.toInt_eq_toNat_cond]
  have := v.isLt
  rw [show v.getLsbD 7 = v.msb from rfl, BitVec.msb_eq_decide]
  grind

theorem neg_word (v : Word) : v.getLsbD 15 = decide (v.toInt < 0) := by
  rw [BitVec.toInt_eq_toNat_cond]
  have := v.isLt
  rw [show v.getLsbD 15 = v.msb from rfl, BitVec.msb_eq_decide]
  grind

theorem top_byte (v : Byte) : v.getLsbD 7 = decide (128 ≤ v.toNat) := by
  rw [show v.getLsbD 7 = v.msb from rfl, BitVec.msb_eq_decide]

theorem top_word (v : Word) : v.getLsbD 15 = decide (32768 ≤ v.toNat) := by
  rw [show v.getLsbD 15 = v.msb from rfl, BitVec.msb_eq_decide]

theorem zero_byte (v : Byte) : (v == 0) = decide (v.toNat = 0) := by
  rw [Bool.eq_iff_iff]; simp [BitVec.toNat_eq]

theorem zero_word (v : Word) : (v == 0) = decide (v.toNat = 0) := by
  rw [Bool.eq_iff_iff]; simp [BitVec.toNat_eq]

theorem int_byte (v : Byte) : v.toInt = if v.toNat < 128 then (v.toNat : Int) else v.toNat - 256 := by
  rw [BitVec.toInt_eq_toNat_cond]
  grind

theorem int_word (v : Word) : v.toInt = if v.toNat < 32768 then (v.toNat : Int) else v.toNat - 65536 := by
  rw [BitVec.toInt_eq_toNat_cond]
  grind

/-! ## Addition and subtraction -/

theorem carryIn_eq (c : Bool) : carryIn c = c.toNat := by cases c <;> rfl

/-- `Add8` gives the exact sum and its flags (R15). -/
theorem add8_isSum (a b : Byte) (cin : Bool) (p : CCR) :
    IsSum8 a b cin p (add8 a b cin p).1 (add8 a b cin p).2 := by
  have ha := a.isLt
  have hb := b.isLt
  have hc : cin.toNat ≤ 1 := by cases cin <;> simp
  have hr : (add8 a b cin p).1.toNat = (a.toNat + b.toNat + cin.toNat) % 256 := by
    simp only [add8, BitVec.toNat_setWidth, BitVec.toNat_add, BitVec.toNat_ofNat, carryIn_eq]; omega
  have hq : (add8 a b cin p).2.c = decide (256 ≤ a.toNat + b.toNat + cin.toNat) := by
    simp only [add8]
    rw [show ∀ t : BitVec 9, t.getLsbD 8 = t.msb from fun _ => rfl, BitVec.msb_eq_decide]
    simp only [BitVec.toNat_add, BitVec.toNat_setWidth, BitVec.toNat_ofNat, carryIn_eq]
    congr 1; simp only [eq_iff_iff]; omega
  refine ⟨?_, ?_, ?_, neg_byte _, zero_byte _, rfl⟩
  · rw [hr, hq]; by_cases h : 256 ≤ a.toNat + b.toNat + cin.toNat <;> simp [h] <;> omega
  · simp only [add8, carryIn_eq]
  · have : (add8 a b cin p).2.v = ((a.getLsbD 7 == b.getLsbD 7) && ((add8 a b cin p).1.getLsbD 7 != a.getLsbD 7)) := rfl
    rw [this, Bool.eq_iff_iff]
    simp only [top_byte, int_byte, hr, Bool.and_eq_true, beq_iff_eq, bne_iff_ne, ne_eq, decide_eq_decide, decide_eq_true_eq]
    split <;> split <;> split <;> omega

/-- `Sub8` gives the exact difference and its flags (R15). -/
theorem sub8_isDiff (a b : Byte) (bin : Bool) (p : CCR) :
    IsDiff8 a b bin p (sub8 a b bin p).1 (sub8 a b bin p).2 := by
  have ha := a.isLt
  have hb := b.isLt
  have hc : bin.toNat ≤ 1 := by cases bin <;> simp
  have hr : (sub8 a b bin p).1.toNat = (a.toNat + 512 - b.toNat - bin.toNat) % 256 := by
    simp only [sub8, BitVec.toNat_sub, BitVec.toNat_ofNat, carryIn_eq]; omega
  refine ⟨?_, ?_, neg_byte _, zero_byte _, rfl, rfl⟩
  · have : (sub8 a b bin p).2.c = decide (a.toNat < b.toNat + bin.toNat) := by simp only [sub8, carryIn_eq]
    rw [hr, this]; by_cases h : a.toNat < b.toNat + bin.toNat <;> simp [h] <;> omega
  · have : (sub8 a b bin p).2.v = ((a.getLsbD 7 != b.getLsbD 7) && ((sub8 a b bin p).1.getLsbD 7 != a.getLsbD 7)) := rfl
    rw [this, Bool.eq_iff_iff]
    simp only [top_byte, int_byte, hr, Bool.and_eq_true, bne_iff_ne, ne_eq, decide_eq_decide, decide_eq_true_eq]
    split <;> split <;> split <;> omega

/-- `Add16` gives the exact sum and its flags (R15). -/
theorem add16_isSum (a b : Word) (p : CCR) : IsSum16 a b p (add16 a b p).1 (add16 a b p).2 := by
  have ha := a.isLt
  have hb := b.isLt
  have hr : (add16 a b p).1.toNat = (a.toNat + b.toNat) % 65536 := by
    simp only [add16, BitVec.toNat_setWidth, BitVec.toNat_add]; omega
  have hq : (add16 a b p).2.c = decide (65536 ≤ a.toNat + b.toNat) := by
    simp only [add16]
    rw [show ∀ t : BitVec 17, t.getLsbD 16 = t.msb from fun _ => rfl, BitVec.msb_eq_decide]
    simp only [BitVec.toNat_add, BitVec.toNat_setWidth]
    congr 1; simp only [eq_iff_iff]; omega
  refine ⟨?_, ?_, neg_word _, zero_word _, rfl, rfl⟩
  · rw [hr, hq]; by_cases h : 65536 ≤ a.toNat + b.toNat <;> simp [h] <;> omega
  · have : (add16 a b p).2.v = ((a.getLsbD 15 == b.getLsbD 15) && ((add16 a b p).1.getLsbD 15 != a.getLsbD 15)) := rfl
    rw [this, Bool.eq_iff_iff]
    simp only [top_word, int_word, hr, Bool.and_eq_true, beq_iff_eq, bne_iff_ne, ne_eq, decide_eq_decide, decide_eq_true_eq]
    split <;> split <;> split <;> omega

/-- `Sub16` gives the exact difference and its flags (R15). -/
theorem sub16_isDiff (a b : Word) (p : CCR) : IsDiff16 a b p (sub16 a b p).1 (sub16 a b p).2 := by
  have ha := a.isLt
  have hb := b.isLt
  have hr : (sub16 a b p).1.toNat = (a.toNat + 65536 - b.toNat) % 65536 := by
    simp only [sub16, BitVec.toNat_sub]; omega
  refine ⟨?_, ?_, neg_word _, zero_word _, rfl, rfl⟩
  · have : (sub16 a b p).2.c = decide (a.toNat < b.toNat) := rfl
    rw [hr, this]; by_cases h : a.toNat < b.toNat <;> simp [h] <;> omega
  · have : (sub16 a b p).2.v = ((a.getLsbD 15 != b.getLsbD 15) && ((sub16 a b p).1.getLsbD 15 != a.getLsbD 15)) := rfl
    rw [this, Bool.eq_iff_iff]
    simp only [top_word, int_word, hr, Bool.and_eq_true, bne_iff_ne, ne_eq, decide_eq_decide, decide_eq_true_eq]
    split <;> split <;> split <;> omega

/-! ## Moves -/

theorem moved8_isMoved (v : Byte) (p : CCR) : IsMoved8 v p (p.moved8 v) :=
  ⟨neg_byte v, zero_byte v, rfl, rfl, rfl, rfl⟩

theorem moved16_isMoved (v : Word) (p : CCR) : IsMoved16 v p (p.moved16 v) :=
  ⟨neg_word v, zero_word v, rfl, rfl, rfl, rfl⟩

/-! ## Shifts and rotates -/

/-- ASL doubles (R190). -/
theorem asl8_exact (m : Byte) (p : CCR) :
    (asl8 m p).1.toNat + 256 * (asl8 m p).2.c.toNat = 2 * m.toNat := by
  have := m.isLt
  have hc : (asl8 m p).2.c = decide (128 ≤ m.toNat) := top_byte m
  rw [hc]
  simp only [asl8, BitVec.toNat_shiftLeft, Nat.shiftLeft_eq]
  by_cases h : 128 ≤ m.toNat <;> simp [h] <;> omega

theorem low_byte (v : Byte) : v.getLsbD 0 = decide (v.toNat % 2 = 1) := by
  simp [BitVec.getLsbD, Nat.testBit_zero]

theorem low_word (v : Word) : v.getLsbD 0 = decide (v.toNat % 2 = 1) := by
  simp [BitVec.getLsbD, Nat.testBit_zero]

/-- ASR halves, rounding toward minus infinity (R193). -/
theorem asr8_exact (m : Byte) (p : CCR) :
    2 * (asr8 m p).1.toInt + (asr8 m p).2.c.toNat = m.toInt := by
  have hv : (asr8 m p).1 = m.sshiftRight 1 := by revert m; simp only [asr8]; decide
  have hc : (asr8 m p).2.c = decide (m.toNat % 2 = 1) := low_byte m
  have := m.isLt
  rw [hv, hc, BitVec.toInt_sshiftRight, int_byte]
  simp only [Int.shiftRight_eq_div_pow]
  by_cases h : m.toNat % 2 = 1 <;> simp [h] <;> split <;> omega

/-- LSR halves (R195). -/
theorem lsr8_exact (m : Byte) (p : CCR) :
    2 * (lsr8 m p).1.toNat + (lsr8 m p).2.c.toNat = m.toNat := by
  have hc : (lsr8 m p).2.c = decide (m.toNat % 2 = 1) := low_byte m
  rw [hc]
  simp only [lsr8, BitVec.toNat_ushiftRight, Nat.shiftRight_eq_div_pow]
  by_cases h : m.toNat % 2 = 1 <;> simp [h] <;> omega

/-- ASLD doubles (R192). -/
theorem asl16_exact (d : Word) (p : CCR) :
    (asl16 d p).1.toNat + 65536 * (asl16 d p).2.c.toNat = 2 * d.toNat := by
  have := d.isLt
  have hc : (asl16 d p).2.c = decide (32768 ≤ d.toNat) := top_word d
  rw [hc]
  simp only [asl16, BitVec.toNat_shiftLeft, Nat.shiftLeft_eq]
  by_cases h : 32768 ≤ d.toNat <;> simp [h] <;> omega

/-- LSRD halves (R197). -/
theorem lsr16_exact (d : Word) (p : CCR) :
    2 * (lsr16 d p).1.toNat + (lsr16 d p).2.c.toNat = d.toNat := by
  have hc : (lsr16 d p).2.c = decide (d.toNat % 2 = 1) := low_word d
  rw [hc]
  simp only [lsr16, BitVec.toNat_ushiftRight, Nat.shiftRight_eq_div_pow]
  by_cases h : d.toNat % 2 = 1 <;> simp [h] <;> omega

/-- ROL is the nine-bit rotate to the left, C being the top bit (R198). -/
theorem rolByte_exact (m : Byte) (c : Bool) :
    (rolByte m c).toNat + 256 * (m.getLsbD 7).toNat = 2 * m.toNat + c.toNat := by
  revert m c; decide

/-- ROR is the nine-bit rotate to the right, C being the top bit (R200). -/
theorem rorByte_exact (m : Byte) (c : Bool) :
    2 * (rorByte m c).toNat + (m.getLsbD 0).toNat = m.toNat + 256 * c.toNat := by
  revert m c; decide

/-! ## Multiply and the open value -/

/-- MUL gives the exact unsigned product (R153). -/
theorem mul8_exact (a b : Byte) (p : CCR) : (mul8 a b p).1.toNat = a.toNat * b.toNat := by
  have h : a.toNat * b.toNat < 2 ^ 16 :=
    lt_of_lt_of_eq (Nat.mul_lt_mul'' a.isLt b.isLt) (by norm_num)
  have ha : a.toNat < 2 ^ 16 := by have := a.isLt; omega
  have hb : b.toNat < 2 ^ 16 := by have := b.isLt; omega
  simp only [mul8, zext16, BitVec.toNat_mul, BitVec.toNat_setWidth, Nat.mod_eq_of_lt ha, Nat.mod_eq_of_lt hb,
    Nat.mod_eq_of_lt h]

/-- The `m6800` values of V and the drawn ones (R33). -/
theorem unknownV_open (f : Bool) (s : State) :
    (∃ d, (unknownV f s).2 = s.setDraws d ∧ OpenV s f (unknownV f s).1 d) := by
  unfold unknownV OpenV
  cases h : s.cfg.vUnknown
  · exact ⟨_, rfl, rfl, rfl⟩
  · exact ⟨s.draws, rfl, rfl, rfl⟩

end Sys2Proof.Machine
end

