-- ==== Sys2Proof/Laws/PerInstr.lean ====
section
/-!
SUPPORT. Facts about every instruction as syntax, one lemma per constructor. EncodedLength: the length of an
instruction follows from its opcode byte alone (30_encoding.md R80, R82).
-/

namespace Sys2Proof.Laws

/-- The first byte of the encoding decides how many operand bytes follow, two at most (R80, R82). -/
def EncodedLength.Statement (i : Instr) : Prop :=
  ∃ op rest, encode i = op :: rest ∧ (opcodeMap op).map Shape.operandBytes = some rest.length ∧ rest.length ≤ 2

theorem EncodedLength.nop : EncodedLength.Statement .nop := ⟨_, _, rfl, rfl, by decide⟩
theorem EncodedLength.lsrd : EncodedLength.Statement .lsrd := ⟨_, _, rfl, rfl, by decide⟩
theorem EncodedLength.asld : EncodedLength.Statement .asld := ⟨_, _, rfl, rfl, by decide⟩
theorem EncodedLength.tap : EncodedLength.Statement .tap := ⟨_, _, rfl, rfl, by decide⟩
theorem EncodedLength.tpa : EncodedLength.Statement .tpa := ⟨_, _, rfl, rfl, by decide⟩
theorem EncodedLength.inx : EncodedLength.Statement .inx := ⟨_, _, rfl, rfl, by decide⟩
theorem EncodedLength.dex : EncodedLength.Statement .dex := ⟨_, _, rfl, rfl, by decide⟩
theorem EncodedLength.clv : EncodedLength.Statement .clv := ⟨_, _, rfl, rfl, by decide⟩
theorem EncodedLength.sev : EncodedLength.Statement .sev := ⟨_, _, rfl, rfl, by decide⟩
theorem EncodedLength.clc : EncodedLength.Statement .clc := ⟨_, _, rfl, rfl, by decide⟩
theorem EncodedLength.sec : EncodedLength.Statement .sec := ⟨_, _, rfl, rfl, by decide⟩
theorem EncodedLength.cli : EncodedLength.Statement .cli := ⟨_, _, rfl, rfl, by decide⟩
theorem EncodedLength.sei : EncodedLength.Statement .sei := ⟨_, _, rfl, rfl, by decide⟩
theorem EncodedLength.sba : EncodedLength.Statement .sba := ⟨_, _, rfl, rfl, by decide⟩
theorem EncodedLength.cba : EncodedLength.Statement .cba := ⟨_, _, rfl, rfl, by decide⟩
theorem EncodedLength.tab : EncodedLength.Statement .tab := ⟨_, _, rfl, rfl, by decide⟩
theorem EncodedLength.tba : EncodedLength.Statement .tba := ⟨_, _, rfl, rfl, by decide⟩
theorem EncodedLength.daa : EncodedLength.Statement .daa := ⟨_, _, rfl, rfl, by decide⟩
theorem EncodedLength.aba : EncodedLength.Statement .aba := ⟨_, _, rfl, rfl, by decide⟩
theorem EncodedLength.bra (rel : Byte) : EncodedLength.Statement (.bra rel) := ⟨_, _, rfl, rfl, by simp⟩
theorem EncodedLength.brn (rel : Byte) : EncodedLength.Statement (.brn rel) := ⟨_, _, rfl, rfl, by simp⟩
theorem EncodedLength.bhi (rel : Byte) : EncodedLength.Statement (.bhi rel) := ⟨_, _, rfl, rfl, by simp⟩
theorem EncodedLength.bls (rel : Byte) : EncodedLength.Statement (.bls rel) := ⟨_, _, rfl, rfl, by simp⟩
theorem EncodedLength.bcc (rel : Byte) : EncodedLength.Statement (.bcc rel) := ⟨_, _, rfl, rfl, by simp⟩
theorem EncodedLength.bhs (rel : Byte) : EncodedLength.Statement (.bhs rel) := ⟨_, _, rfl, rfl, by simp⟩
theorem EncodedLength.bcs (rel : Byte) : EncodedLength.Statement (.bcs rel) := ⟨_, _, rfl, rfl, by simp⟩
theorem EncodedLength.blo (rel : Byte) : EncodedLength.Statement (.blo rel) := ⟨_, _, rfl, rfl, by simp⟩
theorem EncodedLength.bne (rel : Byte) : EncodedLength.Statement (.bne rel) := ⟨_, _, rfl, rfl, by simp⟩
theorem EncodedLength.beq (rel : Byte) : EncodedLength.Statement (.beq rel) := ⟨_, _, rfl, rfl, by simp⟩
theorem EncodedLength.bvc (rel : Byte) : EncodedLength.Statement (.bvc rel) := ⟨_, _, rfl, rfl, by simp⟩
theorem EncodedLength.bvs (rel : Byte) : EncodedLength.Statement (.bvs rel) := ⟨_, _, rfl, rfl, by simp⟩
theorem EncodedLength.bpl (rel : Byte) : EncodedLength.Statement (.bpl rel) := ⟨_, _, rfl, rfl, by simp⟩
theorem EncodedLength.bmi (rel : Byte) : EncodedLength.Statement (.bmi rel) := ⟨_, _, rfl, rfl, by simp⟩
theorem EncodedLength.bge (rel : Byte) : EncodedLength.Statement (.bge rel) := ⟨_, _, rfl, rfl, by simp⟩
theorem EncodedLength.blt (rel : Byte) : EncodedLength.Statement (.blt rel) := ⟨_, _, rfl, rfl, by simp⟩
theorem EncodedLength.bgt (rel : Byte) : EncodedLength.Statement (.bgt rel) := ⟨_, _, rfl, rfl, by simp⟩
theorem EncodedLength.ble (rel : Byte) : EncodedLength.Statement (.ble rel) := ⟨_, _, rfl, rfl, by simp⟩
theorem EncodedLength.tsx : EncodedLength.Statement .tsx := ⟨_, _, rfl, rfl, by decide⟩
theorem EncodedLength.ins : EncodedLength.Statement .ins := ⟨_, _, rfl, rfl, by decide⟩
theorem EncodedLength.pula : EncodedLength.Statement .pula := ⟨_, _, rfl, rfl, by decide⟩
theorem EncodedLength.pulb : EncodedLength.Statement .pulb := ⟨_, _, rfl, rfl, by decide⟩
theorem EncodedLength.des : EncodedLength.Statement .des := ⟨_, _, rfl, rfl, by decide⟩
theorem EncodedLength.txs : EncodedLength.Statement .txs := ⟨_, _, rfl, rfl, by decide⟩
theorem EncodedLength.psha : EncodedLength.Statement .psha := ⟨_, _, rfl, rfl, by decide⟩
theorem EncodedLength.pshb : EncodedLength.Statement .pshb := ⟨_, _, rfl, rfl, by decide⟩
theorem EncodedLength.pulx : EncodedLength.Statement .pulx := ⟨_, _, rfl, rfl, by decide⟩
theorem EncodedLength.rts : EncodedLength.Statement .rts := ⟨_, _, rfl, rfl, by decide⟩
theorem EncodedLength.abx : EncodedLength.Statement .abx := ⟨_, _, rfl, rfl, by decide⟩
theorem EncodedLength.rti : EncodedLength.Statement .rti := ⟨_, _, rfl, rfl, by decide⟩
theorem EncodedLength.pshx : EncodedLength.Statement .pshx := ⟨_, _, rfl, rfl, by decide⟩
theorem EncodedLength.mul : EncodedLength.Statement .mul := ⟨_, _, rfl, rfl, by decide⟩
theorem EncodedLength.wai : EncodedLength.Statement .wai := ⟨_, _, rfl, rfl, by decide⟩
theorem EncodedLength.swi : EncodedLength.Statement .swi := ⟨_, _, rfl, rfl, by decide⟩
theorem EncodedLength.nega : EncodedLength.Statement .nega := ⟨_, _, rfl, rfl, by decide⟩
theorem EncodedLength.coma : EncodedLength.Statement .coma := ⟨_, _, rfl, rfl, by decide⟩
theorem EncodedLength.lsra : EncodedLength.Statement .lsra := ⟨_, _, rfl, rfl, by decide⟩
theorem EncodedLength.rora : EncodedLength.Statement .rora := ⟨_, _, rfl, rfl, by decide⟩
theorem EncodedLength.asra : EncodedLength.Statement .asra := ⟨_, _, rfl, rfl, by decide⟩
theorem EncodedLength.asla : EncodedLength.Statement .asla := ⟨_, _, rfl, rfl, by decide⟩
theorem EncodedLength.rola : EncodedLength.Statement .rola := ⟨_, _, rfl, rfl, by decide⟩
theorem EncodedLength.deca : EncodedLength.Statement .deca := ⟨_, _, rfl, rfl, by decide⟩
theorem EncodedLength.inca : EncodedLength.Statement .inca := ⟨_, _, rfl, rfl, by decide⟩
theorem EncodedLength.tsta : EncodedLength.Statement .tsta := ⟨_, _, rfl, rfl, by decide⟩
theorem EncodedLength.clra : EncodedLength.Statement .clra := ⟨_, _, rfl, rfl, by decide⟩
theorem EncodedLength.negb : EncodedLength.Statement .negb := ⟨_, _, rfl, rfl, by decide⟩
theorem EncodedLength.comb : EncodedLength.Statement .comb := ⟨_, _, rfl, rfl, by decide⟩
theorem EncodedLength.lsrb : EncodedLength.Statement .lsrb := ⟨_, _, rfl, rfl, by decide⟩
theorem EncodedLength.rorb : EncodedLength.Statement .rorb := ⟨_, _, rfl, rfl, by decide⟩
theorem EncodedLength.asrb : EncodedLength.Statement .asrb := ⟨_, _, rfl, rfl, by decide⟩
theorem EncodedLength.aslb : EncodedLength.Statement .aslb := ⟨_, _, rfl, rfl, by decide⟩
theorem EncodedLength.rolb : EncodedLength.Statement .rolb := ⟨_, _, rfl, rfl, by decide⟩
theorem EncodedLength.decb : EncodedLength.Statement .decb := ⟨_, _, rfl, rfl, by decide⟩
theorem EncodedLength.incb : EncodedLength.Statement .incb := ⟨_, _, rfl, rfl, by decide⟩
theorem EncodedLength.tstb : EncodedLength.Statement .tstb := ⟨_, _, rfl, rfl, by decide⟩
theorem EncodedLength.clrb : EncodedLength.Statement .clrb := ⟨_, _, rfl, rfl, by decide⟩
theorem EncodedLength.neg (o : MemOp) : EncodedLength.Statement (.neg o) := by
  cases o <;> exact ⟨_, _, rfl, rfl, by simp⟩
theorem EncodedLength.com (o : MemOp) : EncodedLength.Statement (.com o) := by
  cases o <;> exact ⟨_, _, rfl, rfl, by simp⟩
theorem EncodedLength.lsr (o : MemOp) : EncodedLength.Statement (.lsr o) := by
  cases o <;> exact ⟨_, _, rfl, rfl, by simp⟩
theorem EncodedLength.ror (o : MemOp) : EncodedLength.Statement (.ror o) := by
  cases o <;> exact ⟨_, _, rfl, rfl, by simp⟩
theorem EncodedLength.asr (o : MemOp) : EncodedLength.Statement (.asr o) := by
  cases o <;> exact ⟨_, _, rfl, rfl, by simp⟩
theorem EncodedLength.asl (o : MemOp) : EncodedLength.Statement (.asl o) := by
  cases o <;> exact ⟨_, _, rfl, rfl, by simp⟩
theorem EncodedLength.rol (o : MemOp) : EncodedLength.Statement (.rol o) := by
  cases o <;> exact ⟨_, _, rfl, rfl, by simp⟩
theorem EncodedLength.dec (o : MemOp) : EncodedLength.Statement (.dec o) := by
  cases o <;> exact ⟨_, _, rfl, rfl, by simp⟩
theorem EncodedLength.inc (o : MemOp) : EncodedLength.Statement (.inc o) := by
  cases o <;> exact ⟨_, _, rfl, rfl, by simp⟩
theorem EncodedLength.tst (o : MemOp) : EncodedLength.Statement (.tst o) := by
  cases o <;> exact ⟨_, _, rfl, rfl, by simp⟩
theorem EncodedLength.jmp (o : MemOp) : EncodedLength.Statement (.jmp o) := by
  cases o <;> exact ⟨_, _, rfl, rfl, by simp⟩
theorem EncodedLength.clr (o : MemOp) : EncodedLength.Statement (.clr o) := by
  cases o <;> exact ⟨_, _, rfl, rfl, by simp⟩
theorem EncodedLength.suba (o : Src8) : EncodedLength.Statement (.suba o) := by
  rcases o with _ | (_ | _ | _) <;> exact ⟨_, _, rfl, rfl, by simp⟩
theorem EncodedLength.cmpa (o : Src8) : EncodedLength.Statement (.cmpa o) := by
  rcases o with _ | (_ | _ | _) <;> exact ⟨_, _, rfl, rfl, by simp⟩
theorem EncodedLength.sbca (o : Src8) : EncodedLength.Statement (.sbca o) := by
  rcases o with _ | (_ | _ | _) <;> exact ⟨_, _, rfl, rfl, by simp⟩
theorem EncodedLength.subd (o : Src16) : EncodedLength.Statement (.subd o) := by
  rcases o with _ | (_ | _ | _) <;> exact ⟨_, _, rfl, rfl, by simp⟩
theorem EncodedLength.anda (o : Src8) : EncodedLength.Statement (.anda o) := by
  rcases o with _ | (_ | _ | _) <;> exact ⟨_, _, rfl, rfl, by simp⟩
theorem EncodedLength.bita (o : Src8) : EncodedLength.Statement (.bita o) := by
  rcases o with _ | (_ | _ | _) <;> exact ⟨_, _, rfl, rfl, by simp⟩
theorem EncodedLength.ldaa (o : Src8) : EncodedLength.Statement (.ldaa o) := by
  rcases o with _ | (_ | _ | _) <;> exact ⟨_, _, rfl, rfl, by simp⟩
theorem EncodedLength.eora (o : Src8) : EncodedLength.Statement (.eora o) := by
  rcases o with _ | (_ | _ | _) <;> exact ⟨_, _, rfl, rfl, by simp⟩
theorem EncodedLength.adca (o : Src8) : EncodedLength.Statement (.adca o) := by
  rcases o with _ | (_ | _ | _) <;> exact ⟨_, _, rfl, rfl, by simp⟩
theorem EncodedLength.oraa (o : Src8) : EncodedLength.Statement (.oraa o) := by
  rcases o with _ | (_ | _ | _) <;> exact ⟨_, _, rfl, rfl, by simp⟩
theorem EncodedLength.adda (o : Src8) : EncodedLength.Statement (.adda o) := by
  rcases o with _ | (_ | _ | _) <;> exact ⟨_, _, rfl, rfl, by simp⟩
theorem EncodedLength.cpx (o : Src16) : EncodedLength.Statement (.cpx o) := by
  rcases o with _ | (_ | _ | _) <;> exact ⟨_, _, rfl, rfl, by simp⟩
theorem EncodedLength.bsr (rel : Byte) : EncodedLength.Statement (.bsr rel) := ⟨_, _, rfl, rfl, by simp⟩
theorem EncodedLength.lds (o : Src16) : EncodedLength.Statement (.lds o) := by
  rcases o with _ | (_ | _ | _) <;> exact ⟨_, _, rfl, rfl, by simp⟩
theorem EncodedLength.staa (o : Mode) : EncodedLength.Statement (.staa o) := by
  cases o <;> exact ⟨_, _, rfl, rfl, by simp⟩
theorem EncodedLength.sts (o : Mode) : EncodedLength.Statement (.sts o) := by
  cases o <;> exact ⟨_, _, rfl, rfl, by simp⟩
theorem EncodedLength.jsr (o : MemOp) : EncodedLength.Statement (.jsr o) := by
  cases o <;> exact ⟨_, _, rfl, rfl, by simp⟩
theorem EncodedLength.subb (o : Src8) : EncodedLength.Statement (.subb o) := by
  rcases o with _ | (_ | _ | _) <;> exact ⟨_, _, rfl, rfl, by simp⟩
theorem EncodedLength.cmpb (o : Src8) : EncodedLength.Statement (.cmpb o) := by
  rcases o with _ | (_ | _ | _) <;> exact ⟨_, _, rfl, rfl, by simp⟩
theorem EncodedLength.sbcb (o : Src8) : EncodedLength.Statement (.sbcb o) := by
  rcases o with _ | (_ | _ | _) <;> exact ⟨_, _, rfl, rfl, by simp⟩
theorem EncodedLength.addd (o : Src16) : EncodedLength.Statement (.addd o) := by
  rcases o with _ | (_ | _ | _) <;> exact ⟨_, _, rfl, rfl, by simp⟩
theorem EncodedLength.andb (o : Src8) : EncodedLength.Statement (.andb o) := by
  rcases o with _ | (_ | _ | _) <;> exact ⟨_, _, rfl, rfl, by simp⟩
theorem EncodedLength.bitb (o : Src8) : EncodedLength.Statement (.bitb o) := by
  rcases o with _ | (_ | _ | _) <;> exact ⟨_, _, rfl, rfl, by simp⟩
theorem EncodedLength.ldab (o : Src8) : EncodedLength.Statement (.ldab o) := by
  rcases o with _ | (_ | _ | _) <;> exact ⟨_, _, rfl, rfl, by simp⟩
theorem EncodedLength.eorb (o : Src8) : EncodedLength.Statement (.eorb o) := by
  rcases o with _ | (_ | _ | _) <;> exact ⟨_, _, rfl, rfl, by simp⟩
theorem EncodedLength.adcb (o : Src8) : EncodedLength.Statement (.adcb o) := by
  rcases o with _ | (_ | _ | _) <;> exact ⟨_, _, rfl, rfl, by simp⟩
theorem EncodedLength.orab (o : Src8) : EncodedLength.Statement (.orab o) := by
  rcases o with _ | (_ | _ | _) <;> exact ⟨_, _, rfl, rfl, by simp⟩
theorem EncodedLength.addb (o : Src8) : EncodedLength.Statement (.addb o) := by
  rcases o with _ | (_ | _ | _) <;> exact ⟨_, _, rfl, rfl, by simp⟩
theorem EncodedLength.ldd (o : Src16) : EncodedLength.Statement (.ldd o) := by
  rcases o with _ | (_ | _ | _) <;> exact ⟨_, _, rfl, rfl, by simp⟩
theorem EncodedLength.ldx (o : Src16) : EncodedLength.Statement (.ldx o) := by
  rcases o with _ | (_ | _ | _) <;> exact ⟨_, _, rfl, rfl, by simp⟩
theorem EncodedLength.stab (o : Mode) : EncodedLength.Statement (.stab o) := by
  cases o <;> exact ⟨_, _, rfl, rfl, by simp⟩
theorem EncodedLength.std (o : Mode) : EncodedLength.Statement (.std o) := by
  cases o <;> exact ⟨_, _, rfl, rfl, by simp⟩
theorem EncodedLength.stx (o : Mode) : EncodedLength.Statement (.stx o) := by
  cases o <;> exact ⟨_, _, rfl, rfl, by simp⟩

end Sys2Proof.Laws
end

