-- ==== Sys2Proof/Laws/Stack.lean ====
section
/-!
SUPPORT. What several pushes and pulls do (00_scope.md R13, R14): where the bytes lie, what stays as it was, and the
register frame stacked and pulled back.
-/

namespace Sys2Proof.Machine

/-! ## Writes and pushes leave every other byte alone -/

theorem memWrite8_others (addr : Word) (v : Byte) (s : State) (adr : Word) (h : adr ≠ addr) :
    (memWrite8 addr v s).mem.read adr = s.mem.read adr := by
  simp [memWrite8_read, h]

theorem memWrite16_others (addr v : Word) (s : State) (adr : Word) (h : adr ≠ addr) (h' : adr ≠ addr + 1) :
    (memWrite16 addr v s).mem.read adr = s.mem.read adr := by
  rw [memWrite16, memWrite8_others _ _ _ _ h', memWrite8_others _ _ _ _ h]

/-! ## Several pushes -/

/-- Pushing a list of bytes, the first first. -/
def pushAll : List Byte → State → State
  | [], s => s
  | v :: vs, s => pushAll vs (push8 v s)

theorem push16_eq (v : Word) (s : State) : push16 v s = pushAll [loByte v, hiByte v] s := rfl

/-- The frame is pushed byte by byte, PC first and P last (R14). -/
theorem stackRegs_eq (s : State) :
    stackRegs s = pushAll [loByte s.pc, hiByte s.pc, loByte s.x, hiByte s.x, s.a, s.b, pRead s] s := by
  simp [stackRegs, push16, pushAll, pRead]

theorem sub_ofNat_succ (w : Word) (k : Nat) : w - 1 - BitVec.ofNat 16 k = w - BitVec.ofNat 16 (k + 1) := by
  rw [BitVec.sub_sub, Nat.add_comm k 1, BitVec.ofNat_add]
  rfl

/-- Pushing a list leaves every byte alone but those at the addresses pushed to. -/
theorem pushAll_others (vs : List Byte) (s : State) (adr : Word)
    (h : ∀ k, k < vs.length → adr ≠ pushAddr s.cfg.stack (s.sp - BitVec.ofNat 16 k)) :
    (pushAll vs s).mem.read adr = s.mem.read adr := by
  induction vs generalizing s with
  | nil => rfl
  | cons v vs ih =>
    rw [pushAll, ih]
    · rw [push8_mem]
      exact memWrite8_others _ _ _ _ (by simpa using h 0 (by simp))
    · intro k hk
      have := h (k + 1) (by simpa using hk)
      rw [← sub_ofNat_succ] at this
      simpa using this

theorem pushAddr_other (c : StackConvention) (sp : Word) (k : Nat) (h : k < 256) :
    pushAddr c sp ≠ pushAddr c (sp - BitVec.ofNat 16 (k + 1)) := by
  cases c <;> simp only [pushAddr] <;> bv_omega

/-- The bytes of a list pushed lie one below the other, as far as these addresses are `ram`. -/
theorem pushAll_bytes (vs : List Byte) (s : State) (k : Nat) (hk : k < vs.length) (hn : vs.length ≤ 256)
    (h : s.kindAt (pushAddr s.cfg.stack (s.sp - BitVec.ofNat 16 k)) = .ram) :
    (pushAll vs s).mem.read (pushAddr s.cfg.stack (s.sp - BitVec.ofNat 16 k)) = vs[k] := by
  induction vs generalizing s k with
  | nil => simp at hk
  | cons v vs ih =>
    simp only [List.length_cons] at hk hn
    rw [pushAll]
    cases k with
    | zero =>
      rw [pushAll_others]
      · have h0 : s.sp - BitVec.ofNat 16 0 = s.sp := by simp
        rw [h0] at h ⊢
        rw [push8_read, if_pos ⟨h, rfl⟩]
        rfl
      · intro j hj
        have h0 : s.sp - BitVec.ofNat 16 0 = s.sp := by simp
        rw [h0, push8_cfg, push8_sp, sub_ofNat_succ]
        exact pushAddr_other _ _ j (by omega)
    | succ k =>
      have := ih (push8 v s) k (by omega) (by omega)
      simp only [push8_cfg, push8_sp, sub_ofNat_succ, push8_kindAt] at this
      simpa using this h

@[simp] theorem mem_pushed (n : Nat) (s : State) (adr : Word) :
    adr ∈ pushed n s ↔ ∃ k, k < n ∧ adr = pushAddr s.cfg.stack (s.sp - BitVec.ofNat 16 k) := by
  simp [pushed, eq_comm]

/-- Stacking the registers stacks the frame (R14). -/
theorem stackRegs_stacksFrame (s : State) : StacksFrame s (stackRegs s) where
  sp := stackRegs_sp s
  bytes k hk h := by
    rw [stackRegs_eq, pushAll_bytes _ _ _ (by simpa using hk) (by simp) h]
    interval_cases k <;> rfl
  others adr h := by
    rw [stackRegs_eq]
    refine pushAll_others _ _ _ fun k hk he => h ?_
    exact (mem_pushed ..).2 ⟨k, hk, he⟩
  a := stackRegs_a s
  b := stackRegs_b s
  x := stackRegs_x s

/-- Whether the frame has been stacked depends on S, memory, A, B and X alone. -/
theorem stacksFrame_of_eq {s t u : State} (h : StacksFrame s t) (hs : u.sp = t.sp) (hm : u.mem = t.mem) (ha : u.a = t.a)
    (hb : u.b = t.b) (hx : u.x = t.x) : StacksFrame s u :=
  ⟨hs.trans h.sp, by rw [hm]; exact h.bytes, by rw [hm]; exact h.others, ha.trans h.a, hb.trans h.b, hx.trans h.x⟩

/-! ## Several pulls -/

/-- Whether memory answers depends on the parameters alone (R58). -/
theorem answers_of_cfg {s t : State} (h : t.cfg = s.cfg) (addr : Word) : t.answers addr = s.answers addr := by
  simp only [State.answers, State.kindAt, h]

/-- Where memory answers, the return pulls P, B, A, X and PC from the seven bytes at the stack (R14, R307). -/
theorem unstackRegs_memory (s : State) (q : Nat → Byte)
    (hq : ∀ k, q k = s.mem.read (pullAddr s.cfg.stack (s.sp + BitVec.ofNat 16 k)))
    (h : ∀ k, k < 7 → s.answers (pullAddr s.cfg.stack (s.sp + BitVec.ofNat 16 k)) = true) :
    unstackRegs s =
      { s with
        p := CCR.ofByte (q 0), b := q 1, a := q 2, x := joinBytes (q 3) (q 4), pc := joinBytes (q 5) (q 6)
        sp := s.sp + 7 } := by
  have p8 : ∀ (t : State) (k : Nat), k < 7 → t.sp = s.sp + BitVec.ofNat 16 k → t.mem = s.mem → t.cfg = s.cfg →
      pull8 t = (q k, t.setSP (s.sp + BitVec.ofNat 16 (k + 1))) := by
    intro t k hk hs hm hc
    have := h k hk
    rw [pull8_memory]
    · rw [hm, hc, hs, hq, BitVec.ofNat_add, BitVec.add_assoc]; rfl
    · simpa [State.answers, State.kindAt, hs, hc] using this
  have e0 := p8 s 0 (by omega) (by simp) rfl rfl
  have e1 := p8 ((s.setSP (s.sp + BitVec.ofNat 16 1)).setP (CCR.ofByte (q 0))) 1 (by omega) rfl rfl rfl
  have e2 := p8 (((s.setP (CCR.ofByte (q 0))).setSP (s.sp + BitVec.ofNat 16 2)).setB (q 1)) 2 (by omega) rfl rfl rfl
  have e3 := p8 ((((s.setP (CCR.ofByte (q 0))).setB (q 1)).setSP (s.sp + BitVec.ofNat 16 3)).setA (q 2)) 3
    (by omega) rfl rfl rfl
  have e4 := p8 ((((s.setP (CCR.ofByte (q 0))).setB (q 1)).setA (q 2)).setSP (s.sp + BitVec.ofNat 16 4)) 4
    (by omega) rfl rfl rfl
  have e5 := p8 (((((s.setP (CCR.ofByte (q 0))).setB (q 1)).setA (q 2)).setX (joinBytes (q 3) (q 4))).setSP
    (s.sp + BitVec.ofNat 16 5)) 5 (by omega) rfl rfl rfl
  have e6 := p8 (((((s.setP (CCR.ofByte (q 0))).setB (q 1)).setA (q 2)).setX (joinBytes (q 3) (q 4))).setSP
    (s.sp + BitVec.ofNat 16 6)) 6 (by omega) rfl rfl rfl
  simp only [State.setSP, State.setP, State.setA, State.setB, State.setX, zero_add, Nat.reduceAdd] at e0 e1 e2 e3 e4 e5 e6
  simp only [unstackRegs, pull16, State.setPC, State.setP, State.setA, State.setB, State.setX, e0, e1, e2, e3, e4, e5, e6]
  rfl

/-- A pull reads where the push before it stored (R13). -/
theorem pullAddr_pushAddr (c : StackConvention) (sp : Word) : pullAddr c (sp - 1) = pushAddr c sp := by
  cases c <;> simp [pullAddr, pushAddr]

/-- A byte pushed is pulled back wherever S, memory and the parameters are those the push left, its address being `ram`. -/
theorem pull8_of_push8 (s u : State) (v : Byte) (h : s.kindAt (pushAddr s.cfg.stack s.sp) = .ram)
    (hm : u.mem = (push8 v s).mem) (hs : u.sp = s.sp - 1) (hc : u.cfg = s.cfg) : pull8 u = (v, u.setSP s.sp) := by
  have pa : pullAddr u.cfg.stack u.sp = pushAddr s.cfg.stack s.sp := by rw [hs, hc, pullAddr_pushAddr]
  have an : u.answers (pushAddr s.cfg.stack s.sp) = true := by
    rw [answers_of_cfg hc]; simp [State.answers, h]
  rw [pull8_memory u (by rw [pa]; exact an), pa, hm, push8_read, if_pos ⟨h, rfl⟩, hs]
  congr 2
  bv_omega

/-- The same of a word. -/
theorem pull16_of_push16 (s u : State) (v : Word) (h : s.kindAt (pushAddr s.cfg.stack s.sp) = .ram)
    (h' : s.kindAt (pushAddr s.cfg.stack (s.sp - 1)) = .ram) (hm : u.mem = (push16 v s).mem) (hs : u.sp = s.sp - 2)
    (hc : u.cfg = s.cfg) : pull16 u = (v, u.setSP s.sp) := by
  have k1 : (push8 (loByte v) s).kindAt (pushAddr (push8 (loByte v) s).cfg.stack (push8 (loByte v) s).sp) = .ram := by
    rw [push8_kindAt, push8_cfg, push8_sp]; exact h'
  have e1 := pull8_of_push8 (push8 (loByte v) s) u (hiByte v) k1 hm (by rw [hs, push8_sp]; bv_omega)
    (by rw [hc, push8_cfg])
  have low : u.mem.read (pushAddr s.cfg.stack s.sp) = loByte v := by
    have hb := pushAll_bytes [loByte v, hiByte v] s 0 (by simp) (by simp)
    have h0 : s.sp - BitVec.ofNat 16 0 = s.sp := by simp
    rw [h0] at hb
    rw [hm, push16_eq]
    exact hb h
  have pa : pullAddr (u.setSP (s.sp - 1)).cfg.stack (u.setSP (s.sp - 1)).sp = pushAddr s.cfg.stack s.sp := by
    rw [← pullAddr_pushAddr, ← hc]; rfl
  have an : (u.setSP (s.sp - 1)).answers (pushAddr s.cfg.stack s.sp) = true := by
    rw [answers_of_cfg (s := s) (t := u.setSP (s.sp - 1)) hc]; simp [State.answers, h]
  have e2 := pull8_memory (u.setSP (s.sp - 1)) (by rw [pa]; exact an)
  rw [pa, State.setSP_mem, low] at e2
  rw [push8_sp] at e1
  simp only [pull16, e1, e2, join_hi_lo]
  simp only [State.setSP]
  congr 2
  bv_omega

end Sys2Proof.Machine
end

