-- ==== Sys2Proof/Laws/Step.lean ====
section
/-!
SUPPORT. What a step can do, said once: the environment's move, the fetch, and the four cases of the boundary (60_exceptions.md
R320); the opcode map row by row; and the frame of a conditional branch and of the counting and rotating operations.
-/

namespace Sys2Proof.Machine

/-! ## The environment's move (R320, R323) -/

@[simp] theorem envMove_a (s : State) : (envMove s).a = s.a := by unfold envMove; split <;> rfl
@[simp] theorem envMove_b (s : State) : (envMove s).b = s.b := by unfold envMove; split <;> rfl
@[simp] theorem envMove_x (s : State) : (envMove s).x = s.x := by unfold envMove; split <;> rfl
@[simp] theorem envMove_sp (s : State) : (envMove s).sp = s.sp := by unfold envMove; split <;> rfl
@[simp] theorem envMove_pc (s : State) : (envMove s).pc = s.pc := by unfold envMove; split <;> rfl
@[simp] theorem envMove_p (s : State) : (envMove s).p = s.p := by unfold envMove; split <;> rfl
@[simp] theorem envMove_mem (s : State) : (envMove s).mem = s.mem := by unfold envMove; split <;> rfl
@[simp] theorem envMove_waiting (s : State) : (envMove s).waiting = s.waiting := by unfold envMove; split <;> rfl
@[simp] theorem envMove_draws (s : State) : (envMove s).draws = s.draws := by unfold envMove; split <;> rfl
@[simp] theorem envMove_ioLog (s : State) : (envMove s).ioLog = s.ioLog := by unfold envMove; split <;> rfl
@[simp] theorem envMove_cfg (s : State) : (envMove s).cfg = s.cfg := by unfold envMove; split <;> rfl
@[simp] theorem envMove_kindAt (s : State) (adr : Word) : (envMove s).kindAt adr = s.kindAt adr := by
  simp [State.kindAt]

/-! ## The fetch (30_encoding.md R83) -/

/-- A byte fetch changes nothing but PC, the count of draws and the events. -/
theorem fetch8_state (s : State) : ∃ d l, (fetch8 s).2 = ((s.setPC (s.pc + 1)).setDraws d).setIoLog l := by
  obtain ⟨d, l, h⟩ := memRead8_state s.pc s
  exact ⟨d, l, by simp only [fetch8, h]; rfl⟩

/-- A fetched instruction: PC is moved past its one, two or three bytes, and nothing else changes but the count of draws
and the events. -/
theorem fetchInstr_state (s t : State) (i : Instr) (h : fetchInstr s = .instr i t) :
    ∃ k d l, 1 ≤ k ∧ k ≤ 3 ∧ t = ((s.setPC (s.pc + BitVec.ofNat 16 k)).setDraws d).setIoLog l := by
  unfold fetchInstr at h
  obtain ⟨d, l, e⟩ := fetch8_state s
  simp only at h
  split at h
  · cases h
  · cases h
    exact ⟨1, d, l, by omega, by omega, e⟩
  · obtain ⟨d', l', e'⟩ := fetch8_state (fetch8 s).2
    cases h
    refine ⟨2, d', l', by omega, by omega, ?_⟩
    rw [e', e]
    simp only [State.setDraws, State.setIoLog, State.setPC]
    congr 1
    bv_omega
  · obtain ⟨d', l', e'⟩ := fetch8_state (fetch8 s).2
    obtain ⟨d'', l'', e''⟩ := fetch8_state (fetch8 (fetch8 s).2).2
    cases h
    refine ⟨3, d'', l'', by omega, by omega, ?_⟩
    simp only [fetch16]
    rw [e'', e', e]
    simp only [State.setDraws, State.setIoLog, State.setPC]
    congr 1
    bv_omega

/-- An unassigned opcode is the byte fetched, at PC, and the opcode map of the part has no row for it (R97). -/
theorem fetchInstr_unassigned (s : State) (op : Byte) (addr : Word) (h : fetchInstr s = .unassigned op addr) :
    op = (fetch8 s).1 ∧ addr = s.pc ∧ partMap s.cfg.hasExt op = none := by
  unfold fetchInstr at h
  simp only at h
  split at h <;> try cases h
  exact ⟨rfl, rfl, ‹_›⟩

/-! ## The opcode map row by row (R94) -/

/-- What an opcode byte decides encodes to that byte and the operand bytes, is well formed on the part, is canonical,
and has as many bytes as its shape says. -/
theorem partMap_row (hasExt : Bool) (op : Byte) :
    match partMap hasExt op with
    | none => True
    | some (.inh i) => encode i = [op] ∧ i.wellFormed hasExt = true ∧ i.canonical = i ∧ i.length = 1
    | some (.byte mk) =>
      ∀ n, encode (mk n) = [op, n] ∧ (mk n).wellFormed hasExt = true ∧ (mk n).canonical = mk n ∧ (mk n).length = 2
    | some (.word mk) =>
      ∀ w, encode (mk w) = [op, hiByte w, loByte w] ∧ (mk w).wellFormed hasExt = true ∧ (mk w).canonical = mk w ∧
        (mk w).length = 3 := by
  have hk := op.isLt
  have ho : op = BitVec.ofNat 8 op.toNat := by simp
  generalize op.toNat = k at hk ho
  subst ho
  interval_cases k <;> cases hasExt <;>
    first
    | exact True.intro
    | exact And.intro rfl (And.intro rfl (And.intro rfl rfl))
    | exact fun _ => And.intro rfl (And.intro rfl (And.intro rfl rfl))

/-! ## The step (R320) -/

/-- Everything a step that answers a next state has done: reset, an interrupt entry, waiting, or one instruction. -/
theorem step_cases (s t : State) (h : step s = .next t) :
    (boundary (envMove s) = .reset ∧ t = resetSeq (envMove s)) ∨
    (∃ vec, boundary (envMove s) = .interrupt vec ∧ t = takeInterrupt vec (envMove s)) ∨
    (boundary (envMove s) = .wait ∧ t = envMove s) ∨
    (boundary (envMove s) = .run ∧ ∃ i u, fetchInstr (envMove s) = .instr i u ∧ exec i u = .next t) := by
  simp only [step, moveThenAct, act] at h
  cases hb : boundary (envMove s) with
  | reset => rw [hb] at h; cases h; exact .inl ⟨rfl, rfl⟩
  | interrupt vec => rw [hb] at h; cases h; exact .inr (.inl ⟨vec, rfl, rfl⟩)
  | wait => rw [hb] at h; cases h; exact .inr (.inr (.inl ⟨rfl, rfl⟩))
  | run =>
    rw [hb] at h
    simp only at h
    cases hf : fetchInstr (envMove s) with
    | instr i u => rw [hf] at h; exact .inr (.inr (.inr ⟨rfl, i, u, rfl, h⟩))
    | unassigned op addr => rw [hf] at h; cases h

/-! ## Conditional branches (44_branch_jump.md R209) -/

/-- A branch writes PC alone. -/
theorem branchIf_state (c : Bool) (rel : Byte) (s : State) : ∃ w, branchIf c rel s = s.setPC w := by
  unfold branchIf
  split
  · exact ⟨_, rfl⟩
  · exact ⟨s.pc, rfl⟩

@[simp] theorem branchIf_a (c : Bool) (rel : Byte) (s : State) : (branchIf c rel s).a = s.a := by
  obtain ⟨w, h⟩ := branchIf_state c rel s; rw [h]; rfl
@[simp] theorem branchIf_b (c : Bool) (rel : Byte) (s : State) : (branchIf c rel s).b = s.b := by
  obtain ⟨w, h⟩ := branchIf_state c rel s; rw [h]; rfl
@[simp] theorem branchIf_x (c : Bool) (rel : Byte) (s : State) : (branchIf c rel s).x = s.x := by
  obtain ⟨w, h⟩ := branchIf_state c rel s; rw [h]; rfl
@[simp] theorem branchIf_sp (c : Bool) (rel : Byte) (s : State) : (branchIf c rel s).sp = s.sp := by
  obtain ⟨w, h⟩ := branchIf_state c rel s; rw [h]; rfl
@[simp] theorem branchIf_p (c : Bool) (rel : Byte) (s : State) : (branchIf c rel s).p = s.p := by
  obtain ⟨w, h⟩ := branchIf_state c rel s; rw [h]; rfl
@[simp] theorem branchIf_mem (c : Bool) (rel : Byte) (s : State) : (branchIf c rel s).mem = s.mem := by
  obtain ⟨w, h⟩ := branchIf_state c rel s; rw [h]; rfl
@[simp] theorem branchIf_waiting (c : Bool) (rel : Byte) (s : State) : (branchIf c rel s).waiting = s.waiting := by
  obtain ⟨w, h⟩ := branchIf_state c rel s; rw [h]; rfl
@[simp] theorem branchIf_nmiPending (c : Bool) (rel : Byte) (s : State) :
    (branchIf c rel s).nmiPending = s.nmiPending := by
  obtain ⟨w, h⟩ := branchIf_state c rel s; rw [h]; rfl
@[simp] theorem branchIf_irqLine (c : Bool) (rel : Byte) (s : State) : (branchIf c rel s).irqLine = s.irqLine := by
  obtain ⟨w, h⟩ := branchIf_state c rel s; rw [h]; rfl
@[simp] theorem branchIf_resetLine (c : Bool) (rel : Byte) (s : State) :
    (branchIf c rel s).resetLine = s.resetLine := by
  obtain ⟨w, h⟩ := branchIf_state c rel s; rw [h]; rfl
@[simp] theorem branchIf_accept (c : Bool) (rel : Byte) (s : State) : (branchIf c rel s).accept = s.accept := by
  obtain ⟨w, h⟩ := branchIf_state c rel s; rw [h]; rfl
@[simp] theorem branchIf_moves (c : Bool) (rel : Byte) (s : State) : (branchIf c rel s).moves = s.moves := by
  obtain ⟨w, h⟩ := branchIf_state c rel s; rw [h]; rfl
@[simp] theorem branchIf_draws (c : Bool) (rel : Byte) (s : State) : (branchIf c rel s).draws = s.draws := by
  obtain ⟨w, h⟩ := branchIf_state c rel s; rw [h]; rfl
@[simp] theorem branchIf_ioLog (c : Bool) (rel : Byte) (s : State) : (branchIf c rel s).ioLog = s.ioLog := by
  obtain ⟨w, h⟩ := branchIf_state c rel s; rw [h]; rfl
@[simp] theorem branchIf_cfg (c : Bool) (rel : Byte) (s : State) : (branchIf c rel s).cfg = s.cfg := by
  obtain ⟨w, h⟩ := branchIf_state c rel s; rw [h]; rfl

/-! ## Counting and rotating (R33, R156, R158, R198, R200) -/

/-- What INC does to a byte. -/
theorem inc8_spec (m : Byte) (s : State) :
    ∃ q d, inc8 m s = (m + 1, { s with p := q, draws := d }) ∧ IsCounted8 (m + 1) s.p q ∧ q.c = s.p.c ∧
      OpenV s (m == 0x7F) q.v d := by
  obtain ⟨d, h1, h2⟩ := unknownV_open (m == 0x7F) s
  refine ⟨{ s.p.nz8 (m + 1) with v := (unknownV (m == 0x7F) s).1 }, d, ?_, ⟨neg_byte _, zero_byte _, rfl, rfl⟩, rfl, h2⟩
  simp only [inc8, h1]
  rfl

/-- What DEC does to a byte. -/
theorem dec8_spec (m : Byte) (s : State) :
    ∃ q d, dec8 m s = (m - 1, { s with p := q, draws := d }) ∧ IsCounted8 (m - 1) s.p q ∧ q.c = s.p.c ∧
      OpenV s (m == 0x80) q.v d := by
  obtain ⟨d, h1, h2⟩ := unknownV_open (m == 0x80) s
  refine ⟨{ s.p.nz8 (m - 1) with v := (unknownV (m == 0x80) s).1 }, d, ?_, ⟨neg_byte _, zero_byte _, rfl, rfl⟩, rfl, h2⟩
  simp only [dec8, h1]
  rfl

/-- What ROL does to a byte. -/
theorem rol8_spec (m : Byte) (s : State) :
    ∃ q d, rol8 m s = (rolByte m s.p.c, { s with p := q, draws := d }) ∧ IsCounted8 (rolByte m s.p.c) s.p q ∧
      q.c = m.getLsbD 7 ∧ OpenV s (q.n ^^ q.c) q.v d := by
  obtain ⟨d, h1, h2⟩ := unknownV_open ((rolByte m s.p.c).getLsbD 7 ^^ m.getLsbD 7) s
  refine ⟨{ s.p.nz8 (rolByte m s.p.c) with c := m.getLsbD 7, v := (unknownV _ s).1 }, d, ?_,
    ⟨neg_byte _, zero_byte _, rfl, rfl⟩, rfl, h2⟩
  simp only [rol8, h1]
  rfl

/-- What ROR does to a byte. -/
theorem ror8_spec (m : Byte) (s : State) :
    ∃ q d, ror8 m s = (rorByte m s.p.c, { s with p := q, draws := d }) ∧ IsCounted8 (rorByte m s.p.c) s.p q ∧
      q.c = m.getLsbD 0 ∧ OpenV s (q.n ^^ q.c) q.v d := by
  obtain ⟨d, h1, h2⟩ := unknownV_open ((rorByte m s.p.c).getLsbD 7 ^^ m.getLsbD 0) s
  refine ⟨{ s.p.nz8 (rorByte m s.p.c) with c := m.getLsbD 0, v := (unknownV _ s).1 }, d, ?_,
    ⟨neg_byte _, zero_byte _, rfl, rfl⟩, rfl, h2⟩
  simp only [ror8, h1]
  rfl

/-! ## An instruction repeated -/

/-- If one execution of an instruction keeps `Good` and acts on `view` as `f` does, `n` executions act on it as `f`
applied `n` times. -/
theorem execAll_replicate {β : Type} (i : Instr) (view : State → β) (f : β → β) (Good : State → Prop)
    (h : ∀ s, Good s → ∃ t, exec i s = .next t ∧ Good t ∧ view t = f (view s)) (n : Nat) (s : State) (hs : Good s) :
    ∃ t, execAll (List.replicate n i) s = .next t ∧ Good t ∧ view t = f^[n] (view s) := by
  induction n generalizing s with
  | zero => exact ⟨s, rfl, hs, rfl⟩
  | succ n ih =>
    obtain ⟨t, e, ht, hv⟩ := h s hs
    obtain ⟨u, e', hu, hv'⟩ := ih t ht
    refine ⟨u, ?_, hu, by rw [hv', hv, Function.iterate_succ_apply]⟩
    rw [List.replicate_succ, execAll, e]
    exact e'

/-- The nine bits of C and a byte turned left by one place nine times are as before (R198). -/
theorem rolByte_nine (x : Byte × Bool) : (fun y : Byte × Bool => (rolByte y.1 y.2, y.1.getLsbD 7))^[9] x = x := by
  obtain ⟨m, c⟩ := x; revert m c; decide

/-- The same to the right (R200). -/
theorem rorByte_nine (x : Byte × Bool) : (fun y : Byte × Bool => (rorByte y.1 y.2, y.1.getLsbD 0))^[9] x = x := by
  obtain ⟨m, c⟩ := x; revert m c; decide

end Sys2Proof.Machine
end

