-- ==== Sys2Proof/Tests/Slice0.lean ====
section
/-!
SUPPORT. Tests. Expected results are taken from the spec: the encodings from the table of 30_encoding.md R93, the results of
single steps from the vectors of 95_test_vectors.md (each test names its vector), the rest from the rules named. The
last part shows, for each statement of Obligations.lean that has hypotheses, a state and operands that meet them.
-/

open Sys2Proof Sys2Proof.Machine

namespace Sys2Proof.Tests

/-! ## Well-formed instructions (R2, R97): the thirteen `#` rows, each refused on a part without them -/

/-- One instruction of each mnemonic marked `#`. -/
def extRows : List Instr :=
  [.lsrd, .asld, .brn 0x10, .bhs 0x10, .blo 0x10, .pulx, .abx, .pshx, .mul, .subd (.imm 0x1234), .addd (.mem (.dir 0x12)),
    .ldd (.mem (.ext 0x1234)), .std (.idx 0x12)]

theorem test_wellFormed_refuses_lsrd : Instr.wellFormed false .lsrd = false := by decide
theorem test_wellFormed_refuses_asld : Instr.wellFormed false .asld = false := by decide
theorem test_wellFormed_refuses_brn : Instr.wellFormed false (.brn 0x10) = false := by decide
theorem test_wellFormed_refuses_bhs : Instr.wellFormed false (.bhs 0x10) = false := by decide
theorem test_wellFormed_refuses_blo : Instr.wellFormed false (.blo 0x10) = false := by decide
theorem test_wellFormed_refuses_pulx : Instr.wellFormed false .pulx = false := by decide
theorem test_wellFormed_refuses_abx : Instr.wellFormed false .abx = false := by decide
theorem test_wellFormed_refuses_pshx : Instr.wellFormed false .pshx = false := by decide
theorem test_wellFormed_refuses_mul : Instr.wellFormed false .mul = false := by decide
theorem test_wellFormed_refuses_subd : Instr.wellFormed false (.subd (.imm 0x1234)) = false := by decide
theorem test_wellFormed_refuses_addd : Instr.wellFormed false (.addd (.mem (.dir 0x12))) = false := by decide
theorem test_wellFormed_refuses_ldd : Instr.wellFormed false (.ldd (.mem (.ext 0x1234))) = false := by decide
theorem test_wellFormed_refuses_std : Instr.wellFormed false (.std (.idx 0x12)) = false := by decide
theorem test_wellFormed_accepts_ext : extRows.all (Instr.wellFormed true) = true := by decide
theorem test_wellFormed_accepts_bcc : Instr.wellFormed false (.bcc 0x10) = true := by decide

/-! ## Decoding (R93, R96, R97): every row of the table, its word written out, with 12 or 12 34 as the operand -/

/-- The bytes, with more bytes behind them, decode to the instruction and leave the rest. -/
def readsWord (hasExt : Bool) (row : List Byte × Instr) : Bool :=
  decide (decode hasExt (row.1 ++ [0x9D, 0x00]) = .ok row.2 [0x9D, 0x00])

/-- The instruction's encoding is these bytes. -/
def writesWord (row : List Byte × Instr) : Bool := decide (encode row.2 = row.1)

/-- The rows 00 to 0F of R93. -/
def rows00 : List (List Byte × Instr) :=
  [([0x01], .nop), ([0x04], .lsrd), ([0x05], .asld), ([0x06], .tap), ([0x07], .tpa), ([0x08], .inx), ([0x09], .dex),
   ([0x0A], .clv), ([0x0B], .sev), ([0x0C], .clc), ([0x0D], .sec), ([0x0E], .cli), ([0x0F], .sei)]
theorem test_decode_rows00 : rows00.all (readsWord true) = true := by decide
theorem test_encode_rows00 : rows00.all writesWord = true := by decide

/-- The rows 10 to 1F of R93. -/
def rows10 : List (List Byte × Instr) :=
  [([0x10], .sba), ([0x11], .cba), ([0x16], .tab), ([0x17], .tba), ([0x19], .daa), ([0x1B], .aba)]
theorem test_decode_rows10 : rows10.all (readsWord true) = true := by decide
theorem test_encode_rows10 : rows10.all writesWord = true := by decide

/-- The rows 20 to 2F of R93. -/
def rows20 : List (List Byte × Instr) :=
  [([0x20, 0x12], .bra 0x12), ([0x21, 0x12], .brn 0x12), ([0x22, 0x12], .bhi 0x12), ([0x23, 0x12], .bls 0x12),
   ([0x24, 0x12], .bcc 0x12), ([0x25, 0x12], .bcs 0x12), ([0x26, 0x12], .bne 0x12), ([0x27, 0x12], .beq 0x12),
   ([0x28, 0x12], .bvc 0x12), ([0x29, 0x12], .bvs 0x12), ([0x2A, 0x12], .bpl 0x12), ([0x2B, 0x12], .bmi 0x12),
   ([0x2C, 0x12], .bge 0x12), ([0x2D, 0x12], .blt 0x12), ([0x2E, 0x12], .bgt 0x12), ([0x2F, 0x12], .ble 0x12)]
theorem test_decode_rows20 : rows20.all (readsWord true) = true := by decide
theorem test_encode_rows20 : rows20.all writesWord = true := by decide

/-- The rows 30 to 3F of R93. -/
def rows30 : List (List Byte × Instr) :=
  [([0x30], .tsx), ([0x31], .ins), ([0x32], .pula), ([0x33], .pulb), ([0x34], .des), ([0x35], .txs), ([0x36], .psha),
   ([0x37], .pshb), ([0x38], .pulx), ([0x39], .rts), ([0x3A], .abx), ([0x3B], .rti), ([0x3C], .pshx), ([0x3D], .mul),
   ([0x3E], .wai), ([0x3F], .swi)]
theorem test_decode_rows30 : rows30.all (readsWord true) = true := by decide
theorem test_encode_rows30 : rows30.all writesWord = true := by decide

/-- The rows 40 to 4F of R93. -/
def rows40 : List (List Byte × Instr) :=
  [([0x40], .nega), ([0x43], .coma), ([0x44], .lsra), ([0x46], .rora), ([0x47], .asra), ([0x48], .asla),
   ([0x49], .rola), ([0x4A], .deca), ([0x4C], .inca), ([0x4D], .tsta), ([0x4F], .clra)]
theorem test_decode_rows40 : rows40.all (readsWord true) = true := by decide
theorem test_encode_rows40 : rows40.all writesWord = true := by decide

/-- The rows 50 to 5F of R93. -/
def rows50 : List (List Byte × Instr) :=
  [([0x50], .negb), ([0x53], .comb), ([0x54], .lsrb), ([0x56], .rorb), ([0x57], .asrb), ([0x58], .aslb),
   ([0x59], .rolb), ([0x5A], .decb), ([0x5C], .incb), ([0x5D], .tstb), ([0x5F], .clrb)]
theorem test_decode_rows50 : rows50.all (readsWord true) = true := by decide
theorem test_encode_rows50 : rows50.all writesWord = true := by decide

/-- The rows 60 to 6F of R93. -/
def rows60 : List (List Byte × Instr) :=
  [([0x60, 0x12], .neg (.idx 0x12)), ([0x63, 0x12], .com (.idx 0x12)), ([0x64, 0x12], .lsr (.idx 0x12)),
   ([0x66, 0x12], .ror (.idx 0x12)), ([0x67, 0x12], .asr (.idx 0x12)), ([0x68, 0x12], .asl (.idx 0x12)),
   ([0x69, 0x12], .rol (.idx 0x12)), ([0x6A, 0x12], .dec (.idx 0x12)), ([0x6C, 0x12], .inc (.idx 0x12)),
   ([0x6D, 0x12], .tst (.idx 0x12)), ([0x6E, 0x12], .jmp (.idx 0x12)), ([0x6F, 0x12], .clr (.idx 0x12))]
theorem test_decode_rows60 : rows60.all (readsWord true) = true := by decide
theorem test_encode_rows60 : rows60.all writesWord = true := by decide

/-- The rows 70 to 7F of R93. -/
def rows70 : List (List Byte × Instr) :=
  [([0x70, 0x12, 0x34], .neg (.ext 0x1234)), ([0x73, 0x12, 0x34], .com (.ext 0x1234)),
   ([0x74, 0x12, 0x34], .lsr (.ext 0x1234)), ([0x76, 0x12, 0x34], .ror (.ext 0x1234)),
   ([0x77, 0x12, 0x34], .asr (.ext 0x1234)), ([0x78, 0x12, 0x34], .asl (.ext 0x1234)),
   ([0x79, 0x12, 0x34], .rol (.ext 0x1234)), ([0x7A, 0x12, 0x34], .dec (.ext 0x1234)),
   ([0x7C, 0x12, 0x34], .inc (.ext 0x1234)), ([0x7D, 0x12, 0x34], .tst (.ext 0x1234)),
   ([0x7E, 0x12, 0x34], .jmp (.ext 0x1234)), ([0x7F, 0x12, 0x34], .clr (.ext 0x1234))]
theorem test_decode_rows70 : rows70.all (readsWord true) = true := by decide
theorem test_encode_rows70 : rows70.all writesWord = true := by decide

/-- The rows 80 to 8F of R93. -/
def rows80 : List (List Byte × Instr) :=
  [([0x80, 0x12], .suba (.imm 0x12)), ([0x81, 0x12], .cmpa (.imm 0x12)), ([0x82, 0x12], .sbca (.imm 0x12)),
   ([0x83, 0x12, 0x34], .subd (.imm 0x1234)), ([0x84, 0x12], .anda (.imm 0x12)), ([0x85, 0x12], .bita (.imm 0x12)),
   ([0x86, 0x12], .ldaa (.imm 0x12)), ([0x88, 0x12], .eora (.imm 0x12)), ([0x89, 0x12], .adca (.imm 0x12)),
   ([0x8A, 0x12], .oraa (.imm 0x12)), ([0x8B, 0x12], .adda (.imm 0x12)), ([0x8C, 0x12, 0x34], .cpx (.imm 0x1234)),
   ([0x8D, 0x12], .bsr 0x12), ([0x8E, 0x12, 0x34], .lds (.imm 0x1234))]
theorem test_decode_rows80 : rows80.all (readsWord true) = true := by decide
theorem test_encode_rows80 : rows80.all writesWord = true := by decide

/-- The rows 90 to 9F of R93. -/
def rows90 : List (List Byte × Instr) :=
  [([0x90, 0x12], .suba (.mem (.dir 0x12))), ([0x91, 0x12], .cmpa (.mem (.dir 0x12))),
   ([0x92, 0x12], .sbca (.mem (.dir 0x12))), ([0x93, 0x12], .subd (.mem (.dir 0x12))),
   ([0x94, 0x12], .anda (.mem (.dir 0x12))), ([0x95, 0x12], .bita (.mem (.dir 0x12))),
   ([0x96, 0x12], .ldaa (.mem (.dir 0x12))), ([0x97, 0x12], .staa (.dir 0x12)),
   ([0x98, 0x12], .eora (.mem (.dir 0x12))), ([0x99, 0x12], .adca (.mem (.dir 0x12))),
   ([0x9A, 0x12], .oraa (.mem (.dir 0x12))), ([0x9B, 0x12], .adda (.mem (.dir 0x12))),
   ([0x9C, 0x12], .cpx (.mem (.dir 0x12))), ([0x9E, 0x12], .lds (.mem (.dir 0x12))), ([0x9F, 0x12], .sts (.dir 0x12))]
theorem test_decode_rows90 : rows90.all (readsWord true) = true := by decide
theorem test_encode_rows90 : rows90.all writesWord = true := by decide

/-- The rows A0 to AF of R93. -/
def rowsA0 : List (List Byte × Instr) :=
  [([0xA0, 0x12], .suba (.mem (.idx 0x12))), ([0xA1, 0x12], .cmpa (.mem (.idx 0x12))),
   ([0xA2, 0x12], .sbca (.mem (.idx 0x12))), ([0xA3, 0x12], .subd (.mem (.idx 0x12))),
   ([0xA4, 0x12], .anda (.mem (.idx 0x12))), ([0xA5, 0x12], .bita (.mem (.idx 0x12))),
   ([0xA6, 0x12], .ldaa (.mem (.idx 0x12))), ([0xA7, 0x12], .staa (.idx 0x12)),
   ([0xA8, 0x12], .eora (.mem (.idx 0x12))), ([0xA9, 0x12], .adca (.mem (.idx 0x12))),
   ([0xAA, 0x12], .oraa (.mem (.idx 0x12))), ([0xAB, 0x12], .adda (.mem (.idx 0x12))),
   ([0xAC, 0x12], .cpx (.mem (.idx 0x12))), ([0xAD, 0x12], .jsr (.idx 0x12)), ([0xAE, 0x12], .lds (.mem (.idx 0x12))),
   ([0xAF, 0x12], .sts (.idx 0x12))]
theorem test_decode_rowsA0 : rowsA0.all (readsWord true) = true := by decide
theorem test_encode_rowsA0 : rowsA0.all writesWord = true := by decide

/-- The rows B0 to BF of R93. -/
def rowsB0 : List (List Byte × Instr) :=
  [([0xB0, 0x12, 0x34], .suba (.mem (.ext 0x1234))), ([0xB1, 0x12, 0x34], .cmpa (.mem (.ext 0x1234))),
   ([0xB2, 0x12, 0x34], .sbca (.mem (.ext 0x1234))), ([0xB3, 0x12, 0x34], .subd (.mem (.ext 0x1234))),
   ([0xB4, 0x12, 0x34], .anda (.mem (.ext 0x1234))), ([0xB5, 0x12, 0x34], .bita (.mem (.ext 0x1234))),
   ([0xB6, 0x12, 0x34], .ldaa (.mem (.ext 0x1234))), ([0xB7, 0x12, 0x34], .staa (.ext 0x1234)),
   ([0xB8, 0x12, 0x34], .eora (.mem (.ext 0x1234))), ([0xB9, 0x12, 0x34], .adca (.mem (.ext 0x1234))),
   ([0xBA, 0x12, 0x34], .oraa (.mem (.ext 0x1234))), ([0xBB, 0x12, 0x34], .adda (.mem (.ext 0x1234))),
   ([0xBC, 0x12, 0x34], .cpx (.mem (.ext 0x1234))), ([0xBD, 0x12, 0x34], .jsr (.ext 0x1234)),
   ([0xBE, 0x12, 0x34], .lds (.mem (.ext 0x1234))), ([0xBF, 0x12, 0x34], .sts (.ext 0x1234))]
theorem test_decode_rowsB0 : rowsB0.all (readsWord true) = true := by decide
theorem test_encode_rowsB0 : rowsB0.all writesWord = true := by decide

/-- The rows C0 to CF of R93. -/
def rowsC0 : List (List Byte × Instr) :=
  [([0xC0, 0x12], .subb (.imm 0x12)), ([0xC1, 0x12], .cmpb (.imm 0x12)), ([0xC2, 0x12], .sbcb (.imm 0x12)),
   ([0xC3, 0x12, 0x34], .addd (.imm 0x1234)), ([0xC4, 0x12], .andb (.imm 0x12)), ([0xC5, 0x12], .bitb (.imm 0x12)),
   ([0xC6, 0x12], .ldab (.imm 0x12)), ([0xC8, 0x12], .eorb (.imm 0x12)), ([0xC9, 0x12], .adcb (.imm 0x12)),
   ([0xCA, 0x12], .orab (.imm 0x12)), ([0xCB, 0x12], .addb (.imm 0x12)), ([0xCC, 0x12, 0x34], .ldd (.imm 0x1234)),
   ([0xCE, 0x12, 0x34], .ldx (.imm 0x1234))]
theorem test_decode_rowsC0 : rowsC0.all (readsWord true) = true := by decide
theorem test_encode_rowsC0 : rowsC0.all writesWord = true := by decide

/-- The rows D0 to DF of R93. -/
def rowsD0 : List (List Byte × Instr) :=
  [([0xD0, 0x12], .subb (.mem (.dir 0x12))), ([0xD1, 0x12], .cmpb (.mem (.dir 0x12))),
   ([0xD2, 0x12], .sbcb (.mem (.dir 0x12))), ([0xD3, 0x12], .addd (.mem (.dir 0x12))),
   ([0xD4, 0x12], .andb (.mem (.dir 0x12))), ([0xD5, 0x12], .bitb (.mem (.dir 0x12))),
   ([0xD6, 0x12], .ldab (.mem (.dir 0x12))), ([0xD7, 0x12], .stab (.dir 0x12)),
   ([0xD8, 0x12], .eorb (.mem (.dir 0x12))), ([0xD9, 0x12], .adcb (.mem (.dir 0x12))),
   ([0xDA, 0x12], .orab (.mem (.dir 0x12))), ([0xDB, 0x12], .addb (.mem (.dir 0x12))),
   ([0xDC, 0x12], .ldd (.mem (.dir 0x12))), ([0xDD, 0x12], .std (.dir 0x12)), ([0xDE, 0x12], .ldx (.mem (.dir 0x12))),
   ([0xDF, 0x12], .stx (.dir 0x12))]
theorem test_decode_rowsD0 : rowsD0.all (readsWord true) = true := by decide
theorem test_encode_rowsD0 : rowsD0.all writesWord = true := by decide

/-- The rows E0 to EF of R93. -/
def rowsE0 : List (List Byte × Instr) :=
  [([0xE0, 0x12], .subb (.mem (.idx 0x12))), ([0xE1, 0x12], .cmpb (.mem (.idx 0x12))),
   ([0xE2, 0x12], .sbcb (.mem (.idx 0x12))), ([0xE3, 0x12], .addd (.mem (.idx 0x12))),
   ([0xE4, 0x12], .andb (.mem (.idx 0x12))), ([0xE5, 0x12], .bitb (.mem (.idx 0x12))),
   ([0xE6, 0x12], .ldab (.mem (.idx 0x12))), ([0xE7, 0x12], .stab (.idx 0x12)),
   ([0xE8, 0x12], .eorb (.mem (.idx 0x12))), ([0xE9, 0x12], .adcb (.mem (.idx 0x12))),
   ([0xEA, 0x12], .orab (.mem (.idx 0x12))), ([0xEB, 0x12], .addb (.mem (.idx 0x12))),
   ([0xEC, 0x12], .ldd (.mem (.idx 0x12))), ([0xED, 0x12], .std (.idx 0x12)), ([0xEE, 0x12], .ldx (.mem (.idx 0x12))),
   ([0xEF, 0x12], .stx (.idx 0x12))]
theorem test_decode_rowsE0 : rowsE0.all (readsWord true) = true := by decide
theorem test_encode_rowsE0 : rowsE0.all writesWord = true := by decide

/-- The rows F0 to FF of R93. -/
def rowsF0 : List (List Byte × Instr) :=
  [([0xF0, 0x12, 0x34], .subb (.mem (.ext 0x1234))), ([0xF1, 0x12, 0x34], .cmpb (.mem (.ext 0x1234))),
   ([0xF2, 0x12, 0x34], .sbcb (.mem (.ext 0x1234))), ([0xF3, 0x12, 0x34], .addd (.mem (.ext 0x1234))),
   ([0xF4, 0x12, 0x34], .andb (.mem (.ext 0x1234))), ([0xF5, 0x12, 0x34], .bitb (.mem (.ext 0x1234))),
   ([0xF6, 0x12, 0x34], .ldab (.mem (.ext 0x1234))), ([0xF7, 0x12, 0x34], .stab (.ext 0x1234)),
   ([0xF8, 0x12, 0x34], .eorb (.mem (.ext 0x1234))), ([0xF9, 0x12, 0x34], .adcb (.mem (.ext 0x1234))),
   ([0xFA, 0x12, 0x34], .orab (.mem (.ext 0x1234))), ([0xFB, 0x12, 0x34], .addb (.mem (.ext 0x1234))),
   ([0xFC, 0x12, 0x34], .ldd (.mem (.ext 0x1234))), ([0xFD, 0x12, 0x34], .std (.ext 0x1234)),
   ([0xFE, 0x12, 0x34], .ldx (.mem (.ext 0x1234))), ([0xFF, 0x12, 0x34], .stx (.ext 0x1234))]
theorem test_decode_rowsF0 : rowsF0.all (readsWord true) = true := by decide
theorem test_encode_rowsF0 : rowsF0.all writesWord = true := by decide

/-- 24 and 25 are BHS and BLO too (R96): the second names' words read as the first names. -/
theorem test_encode_bhs_blo : encode (.bhs 0x12) = [0x24, 0x12] ∧ encode (.blo 0x12) = [0x25, 0x12] := by decide
theorem test_decode_bhs_blo :
    decode false [0x24, 0x12] = .ok (.bcc 0x12) [] ∧ decode false [0x25, 0x12] = .ok (.bcs 0x12) [] := by decide
/-- No immediate store, no STOP or HCF, no direct JMP or JSR, no NEG of memory in the direct mode (R97). -/
theorem test_decode_unassigned :
    ([0x00, 0x87, 0x8F, 0xC7, 0xCD, 0xCF, 0x9D, 0x12, 0x4B, 0x71] : List Byte).all
      (fun op => decide (decode true [op, 0x12, 0x34] = .unassigned op)) = true := by decide
/-- Without HAS_EXT the `#` rows are unassigned (R2, R97). -/
theorem test_decode_without_ext :
    ([0x04, 0x05, 0x21, 0x38, 0x3A, 0x3C, 0x3D, 0x83, 0x93, 0xA3, 0xB3, 0xC3, 0xD3, 0xE3, 0xF3, 0xCC, 0xDC, 0xEC, 0xFC,
      0xDD, 0xED, 0xFD] : List Byte).all (fun op => decide (decode false [op, 0x12, 0x34] = .unassigned op)) = true := by
  decide
theorem test_decode_truncated : decode true [0xCE, 0x12] = .truncated 0xCE ∧ decode true [] = .empty := by decide
/-- The host's words: bit 0 is the first byte's, operand bits above `nbits` are zero. -/
theorem test_decodeTableWord :
    decodeTableWord 8 0x3D = some .mul ∧ decodeTableWord 16 0x1286 = some (.ldaa (.imm 0x12)) ∧
    decodeTableWord 24 0x3412CE = some (.ldx (.imm 0x1234)) ∧ decodeTableWord 8 0x8E = some (.lds (.imm 0)) ∧
    decodeTableWord 8 0x87 = none := by decide

/-! ## Reset, and a word placed where the next step fetches -/

theorem test_reset_memory_canonical : State.reset.mem.wf := by decide
theorem test_reset_pc : State.reset.pc = 0x0000 ∧ State.reset.p.i = true := by decide
/-- TAB (16) placed after reset runs as the first instruction. -/
theorem test_withFetchWord_tab :
    step ((State.reset.setA 0x80).withFetchWord 8 0x16) =
      exec .tab { (State.reset.setA 0x80).withFetchWord 8 0x16 with pc := 1 } := rfl
/-- LDX #1234 placed in a state that waits, is being reset and has an NMI pending runs all the same. -/
theorem test_withFetchWord_busy :
    let s : State := { State.reset with waiting := true, resetLine := true, nmiPending := true }
    step (s.withFetchWord 24 0x3412CE) =
      .next { s.withFetchWord 24 0x3412CE with pc := 3, x := 0x1234 } := rfl

/-! ## One step: the vectors of 95_test_vectors.md -/

/-- All flags 0, where a vector names no flag. -/
def flags0 : CCR := ⟨false, false, false, false, false, false⟩

/-- The default start of a vector: PC 1000, S 01FF, everything else 0 (95_test_vectors.md). -/
def start : State := { State.reset with pc := 0x1000, sp := 0x01FF, p := flags0 }

/-- V40-01: `LDAA #00H`. -/
theorem test_ldaa :
    let s : State := { start with
      a := 0x55, p := { flags0 with n := true, v := true, c := true }, mem := [(0x1000, 0x86)] }
    step s = .next { s with a := 0x00, pc := 0x1002, p := { s.p with n := false, z := true, v := false } } := rfl
/-- V40-03: `LDAB 20H,D`. -/
theorem test_ldab :
    let s : State := { start with
      p := { flags0 with v := true }, mem := [(0x0020, 0x7F), (0x1000, 0xD6), (0x1001, 0x20)] }
    step s = .next { s with b := 0x7F, pc := 0x1002, p := { s.p with n := false, z := false, v := false } } := rfl
/-- V40-04: `LDAA 0FFH,X`. -/
theorem test_ldaa_2 :
    let s : State := { start with x := 0xFF80, mem := [(0x007F, 0x12), (0x1000, 0xA6), (0x1001, 0xFF)] }
    step s = .next { s with a := 0x12, pc := 0x1002, p := { s.p with n := false, z := false, v := false } } := rfl
/-- V40-06: `LDD #8000H`. -/
theorem test_ldd :
    let s : State := { start with mem := [(0x1000, 0xCC), (0x1001, 0x80)] }
    step s = .next { s with a := 0x80, pc := 0x1003, p := { s.p with n := true, z := false, v := false } } := rfl
/-- V40-07: `LDD 0FFFFH,E`. -/
theorem test_ldd_2 :
    let s : State := { start with
      mem := [(0x0000, 0x34), (0x1000, 0xFC), (0x1001, 0xFF), (0x1002, 0xFF), (0xFFFF, 0x12)] }
    step s = .next { s with
      a := 0x12, b := 0x34, pc := 0x1003, p := { s.p with n := false, z := false, v := false } } := rfl
/-- V40-08: `LDS #0000H`. -/
theorem test_lds :
    let s : State := { start with p := { flags0 with n := true }, mem := [(0x1000, 0x8E)] }
    step s = .next { s with sp := 0x0000, pc := 0x1003, p := { s.p with n := false, z := true, v := false } } := rfl
/-- V40-10: `LDX #0FFFFH`. -/
theorem test_ldx :
    let s : State := { start with mem := [(0x1000, 0xCE), (0x1001, 0xFF), (0x1002, 0xFF)] }
    step s = .next { s with x := 0xFFFF, pc := 0x1003, p := { s.p with n := true, z := false, v := false } } := rfl
/-- V40-12: `STAA 10H,D`. -/
theorem test_staa :
    let s : State := { start with
      a := 0x00, p := { flags0 with n := true, v := true, c := true }, mem := [(0x1000, 0x97), (0x1001, 0x10)] }
    step s = .next { s with
      pc := 0x1002, p := { s.p with n := false, z := true, v := false }
      mem := [(0x1000, 0x97), (0x1001, 0x10)] } := rfl
/-- V40-13: `STAB 5,X`. -/
theorem test_stab :
    let s : State := { start with b := 0x80, x := 0x00FE, mem := [(0x1000, 0xE7), (0x1001, 0x05)] }
    step s = .next { s with
      pc := 0x1002, p := { s.p with n := true, z := false, v := false }
      mem := [(0x0103, 0x80), (0x1000, 0xE7), (0x1001, 0x05)] } := rfl
/-- V40-15: `STD 30H,D`. -/
theorem test_std :
    let s : State := { start with a := 0x12, b := 0x34, mem := [(0x1000, 0xDD), (0x1001, 0x30)] }
    step s = .next { s with
      pc := 0x1002, p := { s.p with n := false, z := false, v := false }
      mem := [(0x0030, 0x12), (0x0031, 0x34), (0x1000, 0xDD), (0x1001, 0x30)] } := rfl
/-- V40-16: `STD 0FFFFH,E`. -/
theorem test_std_2 :
    let s : State := { start with a := 0x80, b := 0x00, mem := [(0x1000, 0xFD), (0x1001, 0xFF), (0x1002, 0xFF)] }
    step s = .next { s with
      pc := 0x1003, p := { s.p with n := true, z := false, v := false }
      mem := [(0x1000, 0xFD), (0x1001, 0xFF), (0x1002, 0xFF), (0xFFFF, 0x80)] } := rfl
/-- V40-17: `STS 40H,D`. -/
theorem test_sts :
    let s : State := { start with sp := 0x01FF, mem := [(0x1000, 0x9F), (0x1001, 0x40)] }
    step s = .next { s with
      pc := 0x1002, p := { s.p with n := false, z := false, v := false }
      mem := [(0x0040, 0x01), (0x0041, 0xFF), (0x1000, 0x9F), (0x1001, 0x40)] } := rfl
/-- V40-18: `STX 2,X`. -/
theorem test_stx :
    let s : State := { start with x := 0x0050, mem := [(0x1000, 0xEF), (0x1001, 0x02)] }
    step s = .next { s with
      pc := 0x1002, p := { s.p with n := false, z := false, v := false }
      mem := [(0x0053, 0x50), (0x1000, 0xEF), (0x1001, 0x02)] } := rfl
/-- V40-20: `TAB`. -/
theorem test_tab :
    let s : State := { start with a := 0x80, b := 0x01, p := { flags0 with v := true }, mem := [(0x1000, 0x16)] }
    step s = .next { s with b := 0x80, pc := 0x1001, p := { s.p with n := true, z := false, v := false } } := rfl
/-- V40-21: `TBA`. -/
theorem test_tba :
    let s : State := { start with a := 0x33, b := 0x00, p := { flags0 with v := true }, mem := [(0x1000, 0x17)] }
    step s = .next { s with a := 0x00, pc := 0x1001, p := { s.p with n := false, z := true, v := false } } := rfl
/-- V40-22: `TSX`. -/
theorem test_tsx :
    let s : State := { start with sp := 0x01F0, mem := [(0x1000, 0x30)] }
    step s = .next { s with x := 0x01F0, pc := 0x1001 } := rfl
/-- V40-23: `TSX`, STACK_CONVENTION=hw6800. -/
theorem test_tsx_2 :
    let s : State := { start with sp := 0xFFFF, x := 0x1234, cfg := { stack := .hw6800 }, mem := [(0x1000, 0x30)] }
    step s = .next { s with x := 0x0000, pc := 0x1001 } := rfl
/-- V40-24: `TXS`. -/
theorem test_txs :
    let s : State := { start with x := 0x0200, sp := 0x01FF, mem := [(0x1000, 0x35)] }
    step s = .next { s with sp := 0x0200, pc := 0x1001 } := rfl
/-- V40-25: `TXS`, STACK_CONVENTION=hw6800. -/
theorem test_txs_2 :
    let s : State := { start with x := 0x0000, sp := 0x01FF, cfg := { stack := .hw6800 }, mem := [(0x1000, 0x35)] }
    step s = .next { s with sp := 0xFFFF, pc := 0x1001 } := rfl
/-- V40-26: `PSHA`. -/
theorem test_psha :
    let s : State := { start with a := 0x5A, sp := 0x01FF, mem := [(0x1000, 0x36)] }
    step s = .next { s with sp := 0x01FE, pc := 0x1001, mem := [(0x01FE, 0x5A), (0x1000, 0x36)] } := rfl
/-- V40-27: `PSHA`, STACK_CONVENTION=hw6800. -/
theorem test_psha_2 :
    let s : State := { start with a := 0x5A, sp := 0x01FF, cfg := { stack := .hw6800 }, mem := [(0x1000, 0x36)] }
    step s = .next { s with sp := 0x01FE, pc := 0x1001, mem := [(0x01FF, 0x5A), (0x1000, 0x36)] } := rfl
/-- V40-28: `PSHB`. -/
theorem test_pshb :
    let s : State := { start with b := 0xA5, sp := 0x0000, mem := [(0x1000, 0x37)] }
    step s = .next { s with sp := 0xFFFF, pc := 0x1001, mem := [(0x1000, 0x37), (0xFFFF, 0xA5)] } := rfl
/-- V40-29: `PSHX`. -/
theorem test_pshx :
    let s : State := { start with x := 0x1234, sp := 0x0200, mem := [(0x1000, 0x3C)] }
    step s = .next { s with sp := 0x01FE, pc := 0x1001, mem := [(0x01FE, 0x12), (0x01FF, 0x34), (0x1000, 0x3C)] } := rfl
/-- V40-30: `PSHX`, STACK_CONVENTION=hw6800. -/
theorem test_pshx_2 :
    let s : State := { start with x := 0x1234, sp := 0x0200, cfg := { stack := .hw6800 }, mem := [(0x1000, 0x3C)] }
    step s = .next { s with sp := 0x01FE, pc := 0x1001, mem := [(0x01FF, 0x12), (0x0200, 0x34), (0x1000, 0x3C)] } := rfl
/-- V40-31: `PULA`. -/
theorem test_pula :
    let s : State := { start with
      sp := 0x01FE, p := { flags0 with n := false }, mem := [(0x01FE, 0x99), (0x1000, 0x32)] }
    step s = .next { s with a := 0x99, sp := 0x01FF, pc := 0x1001 } := rfl
/-- V40-32: `PULA`, STACK_CONVENTION=hw6800. -/
theorem test_pula_2 :
    let s : State := { start with sp := 0x01FE, cfg := { stack := .hw6800 }, mem := [(0x01FF, 0x99), (0x1000, 0x32)] }
    step s = .next { s with a := 0x99, sp := 0x01FF, pc := 0x1001 } := rfl
/-- V40-33: `PULB`. -/
theorem test_pulb :
    let s : State := { start with sp := 0xFFFF, mem := [(0x1000, 0x33), (0xFFFF, 0x42)] }
    step s = .next { s with b := 0x42, sp := 0x0000, pc := 0x1001 } := rfl
/-- V40-34: `PULX`. -/
theorem test_pulx :
    let s : State := { start with sp := 0x01FE, mem := [(0x01FE, 0xAB), (0x01FF, 0xCD), (0x1000, 0x38)] }
    step s = .next { s with x := 0xABCD, sp := 0x0200, pc := 0x1001 } := rfl
/-- V40-35: `PULX`, STACK_CONVENTION=hw6800. -/
theorem test_pulx_2 :
    let s : State := { start with
      sp := 0x01FD, cfg := { stack := .hw6800 }, mem := [(0x01FE, 0xAB), (0x01FF, 0xCD), (0x1000, 0x38)] }
    step s = .next { s with x := 0xABCD, sp := 0x01FF, pc := 0x1001 } := rfl
/-- V41-01: `ABA`. -/
theorem test_aba :
    let s : State := { start with a := 0x0F, b := 0x01, mem := [(0x1000, 0x1B)] }
    step s = .next { s with
      a := 0x10, pc := 0x1001, p := { s.p with h := true, n := false, z := false, v := false, c := false } } := rfl
/-- V41-03: `ABA`. -/
theorem test_aba_2 :
    let s : State := { start with a := 0x7F, b := 0x01, mem := [(0x1000, 0x1B)] }
    step s = .next { s with
      a := 0x80, pc := 0x1001, p := { s.p with h := true, n := true, z := false, v := true, c := false } } := rfl
/-- V41-04: `ABX`. -/
theorem test_abx :
    let s : State := { start with x := 0xFF80, b := 0xFF, p := { flags0 with z := true }, mem := [(0x1000, 0x3A)] }
    step s = .next { s with x := 0x007F, pc := 0x1001 } := rfl
/-- V41-05: `ADCA #00H`. -/
theorem test_adca :
    let s : State := { start with a := 0xFF, p := { flags0 with c := true }, mem := [(0x1000, 0x89)] }
    step s = .next { s with
      a := 0x00, pc := 0x1002, p := { s.p with h := true, n := false, z := true, v := false, c := true } } := rfl
/-- V41-06: `ADCB 10H,D`. -/
theorem test_adcb :
    let s : State := { start with b := 0x0F, p := { flags0 with c := true }, mem := [(0x1000, 0xD9), (0x1001, 0x10)] }
    step s = .next { s with
      b := 0x10, pc := 0x1002, p := { s.p with h := true, n := false, z := false, v := false, c := false } } := rfl
/-- V41-07: `ADCA #7FH`. -/
theorem test_adca_2 :
    let s : State := { start with a := 0x00, p := { flags0 with c := true }, mem := [(0x1000, 0x89), (0x1001, 0x7F)] }
    step s = .next { s with
      a := 0x80, pc := 0x1002, p := { s.p with h := true, n := true, z := false, v := true, c := false } } := rfl
/-- V41-08: `ADDA #01H`. -/
theorem test_adda :
    let s : State := { start with a := 0xFF, mem := [(0x1000, 0x8B), (0x1001, 0x01)] }
    step s = .next { s with
      a := 0x00, pc := 0x1002, p := { s.p with h := true, n := false, z := true, v := false, c := true } } := rfl
/-- V41-09: `ADDB #40H`. -/
theorem test_addb :
    let s : State := { start with b := 0x40, mem := [(0x1000, 0xCB), (0x1001, 0x40)] }
    step s = .next { s with
      b := 0x80, pc := 0x1002, p := { s.p with h := false, n := true, z := false, v := true, c := false } } := rfl
/-- V41-11: `ADDD #0001H`. -/
theorem test_addd :
    let s : State := { start with
      a := 0xFF, b := 0xFF, p := { flags0 with h := true }, mem := [(0x1000, 0xC3), (0x1002, 0x01)] }
    step s = .next { s with
      a := 0x00, b := 0x00, pc := 0x1003, p := { s.p with n := false, z := true, v := false, c := true } } := rfl
/-- V41-14: `SBA`. -/
theorem test_sba :
    let s : State := { start with a := 0x00, b := 0x01, mem := [(0x1000, 0x10)] }
    step s = .next { s with
      a := 0xFF, pc := 0x1001, p := { s.p with n := true, z := false, v := false, c := true } } := rfl
/-- V41-15: `SBA`. -/
theorem test_sba_2 :
    let s : State := { start with a := 0x80, b := 0x01, mem := [(0x1000, 0x10)] }
    step s = .next { s with
      a := 0x7F, pc := 0x1001, p := { s.p with n := false, z := false, v := true, c := false } } := rfl
/-- V41-16: `SBCA #00H`. -/
theorem test_sbca :
    let s : State := { start with a := 0x00, p := { flags0 with c := true }, mem := [(0x1000, 0x82)] }
    step s = .next { s with
      a := 0xFF, pc := 0x1002, p := { s.p with n := true, z := false, v := false, c := true } } := rfl
/-- V41-17: `SBCB #0FFH`. -/
theorem test_sbcb :
    let s : State := { start with b := 0x00, p := { flags0 with c := true }, mem := [(0x1000, 0xC2), (0x1001, 0xFF)] }
    step s = .next { s with pc := 0x1002, p := { s.p with n := false, z := true, v := false, c := true } } := rfl
/-- V41-18: `SUBA #01H`. -/
theorem test_suba :
    let s : State := { start with a := 0x01, mem := [(0x1000, 0x80), (0x1001, 0x01)] }
    step s = .next { s with
      a := 0x00, pc := 0x1002, p := { s.p with n := false, z := true, v := false, c := false } } := rfl
/-- V41-19: `SUBB #80H`. -/
theorem test_subb :
    let s : State := { start with b := 0x7F, mem := [(0x1000, 0xC0), (0x1001, 0x80)] }
    step s = .next { s with
      b := 0xFF, pc := 0x1002, p := { s.p with n := true, z := false, v := true, c := true } } := rfl
/-- V41-20: `SUBA 1200H,E`. -/
theorem test_suba_2 :
    let s : State := { start with a := 0x10, mem := [(0x1000, 0xB0), (0x1001, 0x12), (0x1200, 0x20)] }
    step s = .next { s with
      a := 0xF0, pc := 0x1003, p := { s.p with n := true, z := false, v := false, c := true } } := rfl
/-- V41-21: `SUBD #0001H`. -/
theorem test_subd :
    let s : State := { start with a := 0x00, b := 0x00, mem := [(0x1000, 0x83), (0x1002, 0x01)] }
    step s = .next { s with
      a := 0xFF, b := 0xFF, pc := 0x1003, p := { s.p with n := true, z := false, v := false, c := true } } := rfl
/-- V41-24: `CBA`. -/
theorem test_cba :
    let s : State := { start with a := 0x05, b := 0x05, mem := [(0x1000, 0x11)] }
    step s = .next { s with pc := 0x1001, p := { s.p with n := false, z := true, v := false, c := false } } := rfl
/-- V41-26: `CMPA #80H`. -/
theorem test_cmpa :
    let s : State := { start with a := 0x7F, mem := [(0x1000, 0x81), (0x1001, 0x80)] }
    step s = .next { s with pc := 0x1002, p := { s.p with n := true, z := false, v := true, c := true } } := rfl
/-- V41-27: `CMPB 10H,D`. -/
theorem test_cmpb :
    let s : State := { start with b := 0xFF, mem := [(0x0010, 0x01), (0x1000, 0xD1), (0x1001, 0x10)] }
    step s = .next { s with pc := 0x1002, p := { s.p with n := true, z := false, v := false, c := false } } := rfl
/-- V41-28: `CPX #1000H`. -/
theorem test_cpx :
    let s : State := { start with x := 0x1000, p := { flags0 with c := true }, mem := [(0x1000, 0x8C), (0x1001, 0x10)] }
    step s = .next { s with pc := 0x1003, p := { s.p with n := false, z := true, v := false, c := false } } := rfl
/-- V41-30: `CPX #1000H`, CPX_MODEL=m6800. -/
theorem test_cpx_2 :
    let s : State := { start with
      x := 0x0FFF, p := { flags0 with c := false }, cfg := { cpx := .m6800 }
      mem := [(0x1000, 0x8C), (0x1001, 0x10)] }
    step s = .next { s with pc := 0x1003, p := { s.p with n := true, z := false, v := false, c := false } } := rfl
/-- V41-34: `DAA`. -/
theorem test_daa :
    let s : State := { start with a := 0x7D, p := { flags0 with h := false, c := false }, mem := [(0x1000, 0x19)] }
    step s = .next { s with
      a := 0x83, pc := 0x1001, p := { s.p with n := true, z := false, v := Config.freeBit 0, c := false }
      draws := 1 } := rfl
/-- V41-36: `DAA`. -/
theorem test_daa_2 :
    let s : State := { start with a := 0x9A, p := { flags0 with h := false, c := false }, mem := [(0x1000, 0x19)] }
    step s = .next { s with
      a := 0x00, pc := 0x1001, p := { s.p with n := false, z := true, v := Config.freeBit 0, c := true }
      draws := 1 } := rfl
/-- V41-39: `MUL`. -/
theorem test_mul :
    let s : State := { start with a := 0xFF, b := 0xFF, mem := [(0x1000, 0x3D)] }
    step s = .next { s with a := 0xFE, b := 0x01, pc := 0x1001, p := { s.p with c := false } } := rfl
/-- V41-40: `MUL`. -/
theorem test_mul_2 :
    let s : State := { start with a := 0x10, b := 0x08, p := { flags0 with c := false }, mem := [(0x1000, 0x3D)] }
    step s = .next { s with a := 0x00, b := 0x80, pc := 0x1001, p := { s.p with c := true } } := rfl
/-- V41-42: `NEG 0,X`. -/
theorem test_neg :
    let s : State := { start with x := 0x0070, mem := [(0x0070, 0x01), (0x1000, 0x60)] }
    step s = .next { s with
      pc := 0x1002, p := { s.p with n := true, z := false, v := false, c := true }
      mem := [(0x0070, 0xFF), (0x1000, 0x60)] } := rfl
/-- V41-43: `NEGA`. -/
theorem test_nega :
    let s : State := { start with a := 0x80, mem := [(0x1000, 0x40)] }
    step s = .next { s with pc := 0x1001, p := { s.p with n := true, z := false, v := true, c := true } } := rfl
/-- V41-44: `NEGB`. -/
theorem test_negb :
    let s : State := { start with b := 0x00, p := { flags0 with c := true }, mem := [(0x1000, 0x50)] }
    step s = .next { s with pc := 0x1001, p := { s.p with n := false, z := true, v := false, c := false } } := rfl
/-- V41-45: `INC 0080H,E`. -/
theorem test_inc :
    let s : State := { start with
      p := { flags0 with c := true }, mem := [(0x0080, 0xFF), (0x1000, 0x7C), (0x1002, 0x80)] }
    step s = .next { s with
      pc := 0x1003, p := { s.p with n := false, z := true, v := Config.freeBit 0 }
      mem := [(0x1000, 0x7C), (0x1002, 0x80)], draws := 1 } := rfl
/-- V41-46: `INCA`. -/
theorem test_inca :
    let s : State := { start with a := 0x7F, mem := [(0x1000, 0x4C)] }
    step s = .next { s with
      a := 0x80, pc := 0x1001, p := { s.p with n := true, z := false, v := Config.freeBit 0 }, draws := 1 } := rfl
/-- V41-47: `INCA`, V_UNKNOWN=m6800. -/
theorem test_inca_2 :
    let s : State := { start with a := 0x7F, cfg := { vUnknown := .m6800 }, mem := [(0x1000, 0x4C)] }
    step s = .next { s with a := 0x80, pc := 0x1001, p := { s.p with n := true, z := false, v := true } } := rfl
/-- V41-48: `INCB`, V_UNKNOWN=m6800. -/
theorem test_incb :
    let s : State := { start with
      b := 0x00, p := { flags0 with v := true }, cfg := { vUnknown := .m6800 }, mem := [(0x1000, 0x5C)] }
    step s = .next { s with b := 0x01, pc := 0x1001, p := { s.p with n := false, z := false, v := false } } := rfl
/-- V41-49: `DEC 1,X`. -/
theorem test_dec :
    let s : State := { start with x := 0x0080, mem := [(0x0081, 0x01), (0x1000, 0x6A), (0x1001, 0x01)] }
    step s = .next { s with
      pc := 0x1002, p := { s.p with n := false, z := true, v := Config.freeBit 0 }
      mem := [(0x1000, 0x6A), (0x1001, 0x01)], draws := 1 } := rfl
/-- V41-50: `DECA`, V_UNKNOWN=m6800. -/
theorem test_deca :
    let s : State := { start with a := 0x80, cfg := { vUnknown := .m6800 }, mem := [(0x1000, 0x4A)] }
    step s = .next { s with a := 0x7F, pc := 0x1001, p := { s.p with n := false, z := false, v := true } } := rfl
/-- V41-51: `DECB`. -/
theorem test_decb :
    let s : State := { start with b := 0x00, p := { flags0 with c := true }, mem := [(0x1000, 0x5A)] }
    step s = .next { s with
      b := 0xFF, pc := 0x1001, p := { s.p with n := true, z := false, v := Config.freeBit 0 }, draws := 1 } := rfl
/-- V41-52: `INS`. -/
theorem test_ins :
    let s : State := { start with sp := 0xFFFF, p := { flags0 with z := false }, mem := [(0x1000, 0x31)] }
    step s = .next { s with sp := 0x0000, pc := 0x1001 } := rfl
/-- V41-53: `DES`. -/
theorem test_des :
    let s : State := { start with sp := 0x0000, mem := [(0x1000, 0x34)] }
    step s = .next { s with sp := 0xFFFF, pc := 0x1001 } := rfl
/-- V41-54: `INX`. -/
theorem test_inx :
    let s : State := { start with x := 0xFFFF, p := { flags0 with n := true }, mem := [(0x1000, 0x08)] }
    step s = .next { s with x := 0x0000, pc := 0x1001, p := { s.p with z := true } } := rfl
/-- V41-55: `DEX`. -/
theorem test_dex :
    let s : State := { start with x := 0x0001, mem := [(0x1000, 0x09)] }
    step s = .next { s with x := 0x0000, pc := 0x1001, p := { s.p with z := true } } := rfl
/-- V41-57: `CLR 0090H,E`. -/
theorem test_clr :
    let s : State := { start with
      p := { flags0 with n := true, v := true, c := true }
      mem := [(0x0090, 0xFF), (0x1000, 0x7F), (0x1002, 0x90)] }
    step s = .next { s with
      pc := 0x1003, p := { s.p with n := false, z := true, v := false, c := false }
      mem := [(0x1000, 0x7F), (0x1002, 0x90)] } := rfl
/-- V41-58: `CLRA`. -/
theorem test_clra :
    let s : State := { start with
      a := 0xFF, p := { flags0 with n := true, v := true, c := true }, mem := [(0x1000, 0x4F)] }
    step s = .next { s with
      a := 0x00, pc := 0x1001, p := { s.p with n := false, z := true, v := false, c := false } } := rfl
/-- V41-59: `CLRB`. -/
theorem test_clrb :
    let s : State := { start with b := 0x01, p := { flags0 with h := true, i := true }, mem := [(0x1000, 0x5F)] }
    step s = .next { s with
      b := 0x00, pc := 0x1001, p := { s.p with n := false, z := true, v := false, c := false } } := rfl
/-- V41-60: `TST 0,X`. -/
theorem test_tst :
    let s : State := { start with
      x := 0x0090, p := { flags0 with v := true, c := true }, mem := [(0x0090, 0x80), (0x1000, 0x6D)] }
    step s = .next { s with pc := 0x1002, p := { s.p with n := true, z := false, v := false, c := false } } := rfl
/-- V41-61: `TSTA`. -/
theorem test_tsta :
    let s : State := { start with a := 0x00, p := { flags0 with v := true, c := true }, mem := [(0x1000, 0x4D)] }
    step s = .next { s with pc := 0x1001, p := { s.p with n := false, z := true, v := false, c := false } } := rfl
/-- V41-62: `TSTB`. -/
theorem test_tstb :
    let s : State := { start with b := 0x7F, p := { flags0 with n := true }, mem := [(0x1000, 0x5D)] }
    step s = .next { s with pc := 0x1001, p := { s.p with n := false, z := false, v := false, c := false } } := rfl
/-- V42-01: `ANDA #0FH`. -/
theorem test_anda :
    let s : State := { start with
      a := 0xF0, p := { flags0 with v := true, c := true }, mem := [(0x1000, 0x84), (0x1001, 0x0F)] }
    step s = .next { s with a := 0x00, pc := 0x1002, p := { s.p with n := false, z := true, v := false } } := rfl
/-- V42-02: `ANDB 0,X`. -/
theorem test_andb :
    let s : State := { start with b := 0xFF, x := 0x0020, mem := [(0x0020, 0x80), (0x1000, 0xE4)] }
    step s = .next { s with b := 0x80, pc := 0x1002, p := { s.p with n := true, z := false, v := false } } := rfl
/-- V42-03: `BITA #01H`. -/
theorem test_bita :
    let s : State := { start with a := 0xFE, p := { flags0 with v := true }, mem := [(0x1000, 0x85), (0x1001, 0x01)] }
    step s = .next { s with pc := 0x1002, p := { s.p with n := false, z := true, v := false } } := rfl
/-- V42-04: `BITB 10H,D`. -/
theorem test_bitb :
    let s : State := { start with b := 0x81, mem := [(0x0010, 0x80), (0x1000, 0xD5), (0x1001, 0x10)] }
    step s = .next { s with pc := 0x1002, p := { s.p with n := true, z := false, v := false } } := rfl
/-- V42-05: `EORA #0FFH`. -/
theorem test_eora :
    let s : State := { start with a := 0x55, mem := [(0x1000, 0x88), (0x1001, 0xFF)] }
    step s = .next { s with a := 0xAA, pc := 0x1002, p := { s.p with n := true, z := false, v := false } } := rfl
/-- V42-06: `EORB 0030H,E`. -/
theorem test_eorb :
    let s : State := { start with
      b := 0x3C, p := { flags0 with c := true }, mem := [(0x0030, 0x3C), (0x1000, 0xF8), (0x1002, 0x30)] }
    step s = .next { s with b := 0x00, pc := 0x1003, p := { s.p with n := false, z := true, v := false } } := rfl
/-- V42-07: `ORAA #00H`. -/
theorem test_oraa :
    let s : State := { start with a := 0x00, p := { flags0 with v := true }, mem := [(0x1000, 0x8A)] }
    step s = .next { s with pc := 0x1002, p := { s.p with n := false, z := true, v := false } } := rfl
/-- V42-08: `ORAB 1,X`. -/
theorem test_orab :
    let s : State := { start with b := 0x01, x := 0x0020, mem := [(0x0021, 0x80), (0x1000, 0xEA), (0x1001, 0x01)] }
    step s = .next { s with b := 0x81, pc := 0x1002, p := { s.p with n := true, z := false, v := false } } := rfl
/-- V42-09: `COM 0070H,E`. -/
theorem test_com :
    let s : State := { start with mem := [(0x0070, 0xFF), (0x1000, 0x73), (0x1002, 0x70)] }
    step s = .next { s with
      pc := 0x1003, p := { s.p with n := false, z := true, v := false, c := true }
      mem := [(0x1000, 0x73), (0x1002, 0x70)] } := rfl
/-- V42-11: `COMA`. -/
theorem test_coma :
    let s : State := { start with a := 0x55, p := { flags0 with v := true }, mem := [(0x1000, 0x43)] }
    step s = .next { s with
      a := 0xAA, pc := 0x1001, p := { s.p with n := true, z := false, v := false, c := true } } := rfl
/-- V42-12: `COMB`. -/
theorem test_comb :
    let s : State := { start with b := 0x0F, mem := [(0x1000, 0x53)] }
    step s = .next { s with
      b := 0xF0, pc := 0x1001, p := { s.p with n := true, z := false, v := false, c := true } } := rfl
/-- V43-01: `ASLA`. -/
theorem test_asla :
    let s : State := { start with a := 0x80, mem := [(0x1000, 0x48)] }
    step s = .next { s with
      a := 0x00, pc := 0x1001, p := { s.p with n := false, z := true, v := true, c := true } } := rfl
/-- V43-02: `ASLA`. -/
theorem test_asla_2 :
    let s : State := { start with a := 0x40, mem := [(0x1000, 0x48)] }
    step s = .next { s with
      a := 0x80, pc := 0x1001, p := { s.p with n := true, z := false, v := true, c := false } } := rfl
/-- V43-03: `ASLB`. -/
theorem test_aslb :
    let s : State := { start with b := 0xC0, mem := [(0x1000, 0x58)] }
    step s = .next { s with
      b := 0x80, pc := 0x1001, p := { s.p with n := true, z := false, v := false, c := true } } := rfl
/-- V43-04: `ASL 0,X`. -/
theorem test_asl :
    let s : State := { start with x := 0x0030, p := { flags0 with c := true }, mem := [(0x0030, 0x01), (0x1000, 0x68)] }
    step s = .next { s with
      pc := 0x1002, p := { s.p with n := false, z := false, v := false, c := false }
      mem := [(0x0030, 0x02), (0x1000, 0x68)] } := rfl
/-- V43-05: `ASLD`. -/
theorem test_asld :
    let s : State := { start with a := 0x80, b := 0x00, mem := [(0x1000, 0x05)] }
    step s = .next { s with
      a := 0x00, pc := 0x1001, p := { s.p with n := false, z := true, v := true, c := true } } := rfl
/-- V43-07: `ASRA`. -/
theorem test_asra :
    let s : State := { start with a := 0xFF, mem := [(0x1000, 0x47)] }
    step s = .next { s with pc := 0x1001, p := { s.p with n := true, z := false, v := false, c := true } } := rfl
/-- V43-08: `ASRB`. -/
theorem test_asrb :
    let s : State := { start with b := 0x01, mem := [(0x1000, 0x57)] }
    step s = .next { s with
      b := 0x00, pc := 0x1001, p := { s.p with n := false, z := true, v := true, c := true } } := rfl
/-- V43-09: `ASR 0031H,E`. -/
theorem test_asr :
    let s : State := { start with mem := [(0x0031, 0x80), (0x1000, 0x77), (0x1002, 0x31)] }
    step s = .next { s with
      pc := 0x1003, p := { s.p with n := true, z := false, v := true, c := false }
      mem := [(0x0031, 0xC0), (0x1000, 0x77), (0x1002, 0x31)] } := rfl
/-- V43-10: `LSRA`. -/
theorem test_lsra :
    let s : State := { start with a := 0x01, p := { flags0 with n := true }, mem := [(0x1000, 0x44)] }
    step s = .next { s with
      a := 0x00, pc := 0x1001, p := { s.p with n := false, z := true, v := true, c := true } } := rfl
/-- V43-11: `LSRB`. -/
theorem test_lsrb :
    let s : State := { start with b := 0xFE, p := { flags0 with n := true }, mem := [(0x1000, 0x54)] }
    step s = .next { s with
      b := 0x7F, pc := 0x1001, p := { s.p with n := false, z := false, v := false, c := false } } := rfl
/-- V43-12: `LSR 2,X`. -/
theorem test_lsr :
    let s : State := { start with x := 0x0030, mem := [(0x0032, 0x80), (0x1000, 0x64), (0x1001, 0x02)] }
    step s = .next { s with
      pc := 0x1002, p := { s.p with n := false, z := false, v := false, c := false }
      mem := [(0x0032, 0x40), (0x1000, 0x64), (0x1001, 0x02)] } := rfl
/-- V43-13: `LSRD`. -/
theorem test_lsrd :
    let s : State := { start with a := 0x00, b := 0x01, p := { flags0 with n := true }, mem := [(0x1000, 0x04)] }
    step s = .next { s with
      b := 0x00, pc := 0x1001, p := { s.p with n := false, z := true, v := true, c := true } } := rfl
/-- V43-15: `ROLA`. -/
theorem test_rola :
    let s : State := { start with a := 0x80, p := { flags0 with c := false }, mem := [(0x1000, 0x49)] }
    step s = .next { s with
      a := 0x00, pc := 0x1001, p := { s.p with n := false, z := true, v := Config.freeBit 0, c := true }
      draws := 1 } := rfl
/-- V43-16: `ROLA`, V_UNKNOWN=m6800. -/
theorem test_rola_2 :
    let s : State := { start with
      a := 0x80, p := { flags0 with c := true }, cfg := { vUnknown := .m6800 }, mem := [(0x1000, 0x49)] }
    step s = .next { s with
      a := 0x01, pc := 0x1001, p := { s.p with n := false, z := false, v := true, c := true } } := rfl
/-- V43-17: `ROLB`. -/
theorem test_rolb :
    let s : State := { start with b := 0x00, p := { flags0 with c := true }, mem := [(0x1000, 0x59)] }
    step s = .next { s with
      b := 0x01, pc := 0x1001, p := { s.p with n := false, z := false, v := Config.freeBit 0, c := false }
      draws := 1 } := rfl
/-- V43-18: `ROL 0033H,E`, V_UNKNOWN=m6800. -/
theorem test_rol :
    let s : State := { start with
      p := { flags0 with c := false }, cfg := { vUnknown := .m6800 }
      mem := [(0x0033, 0x55), (0x1000, 0x79), (0x1002, 0x33)] }
    step s = .next { s with
      pc := 0x1003, p := { s.p with n := true, z := false, v := true, c := false }
      mem := [(0x0033, 0xAA), (0x1000, 0x79), (0x1002, 0x33)] } := rfl
/-- V43-19: `RORA`. -/
theorem test_rora :
    let s : State := { start with a := 0x01, p := { flags0 with c := false }, mem := [(0x1000, 0x46)] }
    step s = .next { s with
      a := 0x00, pc := 0x1001, p := { s.p with n := false, z := true, v := Config.freeBit 0, c := true }
      draws := 1 } := rfl
/-- V43-20: `RORA`, V_UNKNOWN=m6800. -/
theorem test_rora_2 :
    let s : State := { start with
      a := 0x01, p := { flags0 with c := true }, cfg := { vUnknown := .m6800 }, mem := [(0x1000, 0x46)] }
    step s = .next { s with
      a := 0x80, pc := 0x1001, p := { s.p with n := true, z := false, v := false, c := true } } := rfl
/-- V43-21: `RORB`. -/
theorem test_rorb :
    let s : State := { start with b := 0x00, p := { flags0 with c := true }, mem := [(0x1000, 0x56)] }
    step s = .next { s with
      b := 0x80, pc := 0x1001, p := { s.p with n := true, z := false, v := Config.freeBit 0, c := false }
      draws := 1 } := rfl
/-- V43-22: `ROR 0,X`, V_UNKNOWN=m6800. -/
theorem test_ror :
    let s : State := { start with
      x := 0x0034, p := { flags0 with c := false }, cfg := { vUnknown := .m6800 }
      mem := [(0x0034, 0xAA), (0x1000, 0x66)] }
    step s = .next { s with
      pc := 0x1002, p := { s.p with n := false, z := false, v := false, c := false }
      mem := [(0x0034, 0x55), (0x1000, 0x66)] } := rfl
/-- V44-01: `BRA 1000H`. -/
theorem test_bra :
    let s : State := { start with mem := [(0x1000, 0x20), (0x1001, 0xFE)] }
    step s = .next { s with pc := 0x1000 } := rfl
/-- V44-03: `BRA 0F82H`. -/
theorem test_bra_2 :
    let s : State := { start with mem := [(0x1000, 0x20), (0x1001, 0x80)] }
    step s = .next { s with pc := 0x0F82 } := rfl
/-- V44-06: `BNE 1002H`. -/
theorem test_bne :
    let s : State := { start with p := { flags0 with z := false }, mem := [(0x1000, 0x26)] }
    step s = .next { s with pc := 0x1002 } := rfl
/-- V44-07: `BSR 1012H`. -/
theorem test_bsr :
    let s : State := { start with sp := 0x0200, mem := [(0x1000, 0x8D), (0x1001, 0x10)] }
    step s = .next { s with
      sp := 0x01FE, pc := 0x1012, mem := [(0x01FE, 0x10), (0x01FF, 0x02), (0x1000, 0x8D), (0x1001, 0x10)] } := rfl
/-- V44-08: `BSR 1012H`, STACK_CONVENTION=hw6800. -/
theorem test_bsr_2 :
    let s : State := { start with sp := 0x0200, cfg := { stack := .hw6800 }, mem := [(0x1000, 0x8D), (0x1001, 0x10)] }
    step s = .next { s with
      sp := 0x01FE, pc := 0x1012, mem := [(0x01FF, 0x10), (0x0200, 0x02), (0x1000, 0x8D), (0x1001, 0x10)] } := rfl
/-- V44-10: `JMP 2000H,E`. -/
theorem test_jmp :
    let s : State := { start with mem := [(0x1000, 0x7E), (0x1001, 0x20)] }
    step s = .next { s with pc := 0x2000 } := rfl
/-- V44-12: `JSR 3000H,E`. -/
theorem test_jsr :
    let s : State := { start with sp := 0x0200, mem := [(0x1000, 0xBD), (0x1001, 0x30)] }
    step s = .next { s with
      sp := 0x01FE, pc := 0x3000, mem := [(0x01FE, 0x10), (0x01FF, 0x03), (0x1000, 0xBD), (0x1001, 0x30)] } := rfl
/-- V44-13: `JSR 3000H,E`, STACK_CONVENTION=hw6800. -/
theorem test_jsr_2 :
    let s : State := { start with sp := 0x0200, cfg := { stack := .hw6800 }, mem := [(0x1000, 0xBD), (0x1001, 0x30)] }
    step s = .next { s with
      sp := 0x01FE, pc := 0x3000, mem := [(0x01FF, 0x10), (0x0200, 0x03), (0x1000, 0xBD), (0x1001, 0x30)] } := rfl
/-- V44-15: `RTS`. -/
theorem test_rts :
    let s : State := { start with sp := 0x01FE, mem := [(0x01FE, 0x10), (0x01FF, 0x03), (0x1000, 0x39)] }
    step s = .next { s with sp := 0x0200, pc := 0x1003 } := rfl
/-- V44-16: `RTS`, STACK_CONVENTION=hw6800. -/
theorem test_rts_2 :
    let s : State := { start with
      sp := 0x01FD, cfg := { stack := .hw6800 }, mem := [(0x01FE, 0x10), (0x01FF, 0x03), (0x1000, 0x39)] }
    step s = .next { s with sp := 0x01FF, pc := 0x1003 } := rfl
/-- V45-01: `CLC`. -/
theorem test_clc :
    let s : State := { start with
      p := { flags0 with h := true, i := true, n := true, z := true, v := true, c := true }
      mem := [(0x1000, 0x0C)] }
    step s = .next { s with pc := 0x1001, p := { s.p with c := false } } := rfl
/-- V45-02: `SEC`. -/
theorem test_sec :
    let s : State := { start with mem := [(0x1000, 0x0D)] }
    step s = .next { s with pc := 0x1001, p := { s.p with c := true } } := rfl
/-- V45-03: `CLV`. -/
theorem test_clv :
    let s : State := { start with
      p := { flags0 with h := true, i := true, n := true, z := true, v := true, c := true }
      mem := [(0x1000, 0x0A)] }
    step s = .next { s with pc := 0x1001, p := { s.p with v := false } } := rfl
/-- V45-04: `SEV`. -/
theorem test_sev :
    let s : State := { start with mem := [(0x1000, 0x0B)] }
    step s = .next { s with pc := 0x1001, p := { s.p with v := true } } := rfl
/-- V45-05: `CLI`. -/
theorem test_cli :
    let s : State := { start with
      p := { flags0 with h := true, i := true, n := true, z := true, v := true, c := true }
      mem := [(0x1000, 0x0E)] }
    step s = .next { s with pc := 0x1001, p := { s.p with i := false } } := rfl
/-- V45-06: `SEI`. -/
theorem test_sei :
    let s : State := { start with mem := [(0x1000, 0x0F)] }
    step s = .next { s with pc := 0x1001, p := { s.p with i := true } } := rfl
/-- V45-07: `TAP`. -/
theorem test_tap :
    let s : State := { start with a := 0xFF, mem := [(0x1000, 0x06)] }
    step s = .next { s with
      pc := 0x1001, p := { s.p with h := true, i := true, n := true, z := true, v := true, c := true } } := rfl
/-- V45-08: `TAP`. -/
theorem test_tap_2 :
    let s : State := { start with
      a := 0xC0, p := { flags0 with h := true, i := true, n := true, z := true, v := true, c := true }
      mem := [(0x1000, 0x06)] }
    step s = .next { s with
      pc := 0x1001, p := { s.p with h := false, i := false, n := false, z := false, v := false, c := false } } := rfl
/-- V45-10: `TPA`. -/
theorem test_tpa :
    let s : State := { start with a := 0x00, mem := [(0x1000, 0x07)] }
    step s = .next { s with a := 0xC0, pc := 0x1001 } := rfl
/-- V45-11: `TPA`. -/
theorem test_tpa_2 :
    let s : State := { start with
      a := 0x00, p := { flags0 with h := true, i := true, n := true, z := true, v := true, c := true }
      mem := [(0x1000, 0x07)] }
    step s = .next { s with a := 0xFF, pc := 0x1001 } := rfl
/-- V45-13: `NOP`. -/
theorem test_nop :
    let s : State := { start with pc := 0xFFFF, mem := [(0xFFFF, 0x01)] }
    step s = .next { s with pc := 0x0000 } := rfl
/-- V45-14: `SWI`. -/
theorem test_swi :
    let s : State := { start with
      a := 0x11, b := 0x22, x := 0x3344, sp := 0x0200, p := { flags0 with c := true, z := true }
      mem := [(0x1000, 0x3F), (0xFFFA, 0xE0)] }
    step s = .next { s with
      sp := 0x01F9, pc := 0xE000, p := { s.p with i := true }
      mem := [(0x01F9, 0xC5), (0x01FA, 0x22), (0x01FB, 0x11), (0x01FC, 0x33), (0x01FD, 0x44), (0x01FE, 0x10),
        (0x01FF, 0x01), (0x1000, 0x3F), (0xFFFA, 0xE0)] } := rfl
/-- V45-15: `SWI`, STACK_CONVENTION=hw6800. -/
theorem test_swi_2 :
    let s : State := { start with
      a := 0x11, b := 0x22, x := 0x3344, sp := 0x0200, p := { flags0 with c := true, z := true }
      cfg := { stack := .hw6800 }, mem := [(0x1000, 0x3F), (0xFFFA, 0xE0)] }
    step s = .next { s with
      sp := 0x01F9, pc := 0xE000, p := { s.p with i := true }
      mem := [(0x01FA, 0xC5), (0x01FB, 0x22), (0x01FC, 0x11), (0x01FD, 0x33), (0x01FE, 0x44), (0x01FF, 0x10),
        (0x0200, 0x01), (0x1000, 0x3F), (0xFFFA, 0xE0)] } := rfl
/-- V45-17: `RTI`. -/
theorem test_rti :
    let s : State := { start with
      sp := 0x01F9, p := { flags0 with i := true }
      mem := [(0x01F9, 0xC5), (0x01FA, 0x22), (0x01FB, 0x11), (0x01FC, 0x33), (0x01FD, 0x44), (0x01FE, 0x10),
        (0x01FF, 0x01), (0x1000, 0x3B)] }
    step s = .next { s with
      a := 0x11, b := 0x22, x := 0x3344, sp := 0x0200, pc := 0x1001
      p := { s.p with h := false, i := false, n := false, z := true, v := false, c := true } } := rfl
/-- V45-18: `RTI`, STACK_CONVENTION=hw6800. -/
theorem test_rti_2 :
    let s : State := { start with
      sp := 0x01F8, p := { flags0 with i := true }, cfg := { stack := .hw6800 }
      mem := [(0x01F9, 0xC5), (0x01FA, 0x22), (0x01FB, 0x11), (0x01FC, 0x33), (0x01FD, 0x44), (0x01FE, 0x10),
        (0x01FF, 0x01), (0x1000, 0x3B)] }
    step s = .next { s with
      a := 0x11, b := 0x22, x := 0x3344, sp := 0x01FF, pc := 0x1001
      p := { s.p with h := false, i := false, n := false, z := true, v := false, c := true } } := rfl
/-- V45-20: `WAI`. -/
theorem test_wai :
    let s : State := { start with
      a := 0x11, b := 0x22, x := 0x3344, sp := 0x0200, p := { flags0 with i := false }, mem := [(0x1000, 0x3E)] }
    step s = .next { s with
      sp := 0x01F9, pc := 0x1001, p := { s.p with i := false }
      mem := [(0x01F9, 0xC0), (0x01FA, 0x22), (0x01FB, 0x11), (0x01FC, 0x33), (0x01FD, 0x44), (0x01FE, 0x10),
        (0x01FF, 0x01), (0x1000, 0x3E)]
      waiting := true } := rfl
/-- V45-21: `WAI`, STACK_CONVENTION=hw6800. -/
theorem test_wai_2 :
    let s : State := { start with
      a := 0x11, b := 0x22, x := 0x3344, sp := 0x0200, p := { flags0 with i := true }
      cfg := { stack := .hw6800 }, mem := [(0x1000, 0x3E)] }
    step s = .next { s with
      sp := 0x01F9, pc := 0x1001, p := { s.p with i := true }
      mem := [(0x01FA, 0xD0), (0x01FB, 0x22), (0x01FC, 0x11), (0x01FD, 0x33), (0x01FE, 0x44), (0x01FF, 0x10),
        (0x0200, 0x01), (0x1000, 0x3E)]
      waiting := true } := rfl

/-! ## The relative branches (R210 to R227): PC after the branch with offset 10, and with the other value of its condition -/

/-- PC after one step at 1000 with these flags, the bytes there being `op 10`. -/
def pcAfter (op : Byte) (p : CCR) : Option Word :=
  match step { start with p := p, mem := Memory.write (Memory.write [] 0x1000 op) 0x1001 0x10 } with
  | .next t => some t.pc
  | .fault _ => none
  | .refused _ => none

/-- Taken: PC is 1002 + 10. -/
theorem test_branches_taken :
    ([(0x20, flags0), (0x22, flags0), (0x23, { flags0 with c := true }), (0x23, { flags0 with z := true }),
      (0x24, flags0), (0x25, { flags0 with c := true }), (0x26, flags0), (0x27, { flags0 with z := true }),
      (0x28, flags0), (0x29, { flags0 with v := true }), (0x2A, flags0), (0x2B, { flags0 with n := true }),
      (0x2C, { flags0 with n := true, v := true }), (0x2D, { flags0 with n := true }), (0x2D, { flags0 with v := true }),
      (0x2E, { flags0 with n := true, v := true }), (0x2F, { flags0 with z := true }),
      (0x2F, { flags0 with n := true })] : List (Byte × CCR)).all
        (fun x => decide (pcAfter x.1 x.2 = some 0x1012)) = true := by decide
/-- Not taken: PC is 1002. -/
theorem test_branches_not_taken :
    ([(0x21, { flags0 with c := true, z := true }), (0x22, { flags0 with c := true }), (0x22, { flags0 with z := true }),
      (0x23, { flags0 with n := true, v := true }), (0x24, { flags0 with c := true }), (0x25, flags0),
      (0x26, { flags0 with z := true }), (0x27, flags0), (0x28, { flags0 with v := true }), (0x29, flags0),
      (0x2A, { flags0 with n := true }), (0x2B, flags0), (0x2C, { flags0 with n := true }),
      (0x2D, { flags0 with n := true, v := true }), (0x2E, { flags0 with z := true }),
      (0x2E, { flags0 with v := true }), (0x2F, { flags0 with n := true, v := true })] : List (Byte × CCR)).all
        (fun x => decide (pcAfter x.1 x.2 = some 0x1002)) = true := by decide

/-! ## Interrupts, reset and refusals: the vectors V60 -/

/-- V60-01: IRQ entry. -/
theorem test_irq_entry :
    let s : State := { start with
      pc := 0x1005, a := 0x01, b := 0x02, x := 0x0304, p := { flags0 with n := true, c := true }, irqLine := true
      mem := [(0xFFF8, 0xE1)] }
    step s = .next { s with
      sp := 0x01F8, pc := 0xE100, p := { s.p with i := true }
      mem := [(0x01F8, 0xC9), (0x01F9, 0x02), (0x01FA, 0x01), (0x01FB, 0x03), (0x01FC, 0x04), (0x01FD, 0x10),
        (0x01FE, 0x05), (0xFFF8, 0xE1)] } := rfl
/-- V60-02: IRQ entry, the other stack convention. -/
theorem test_irq_entry_hw6800 :
    let s : State := { start with
      pc := 0x1005, a := 0x01, b := 0x02, x := 0x0304, p := { flags0 with n := true, c := true }, irqLine := true
      cfg := { stack := .hw6800 }, mem := [(0xFFF8, 0xE1)] }
    step s = .next { s with
      sp := 0x01F8, pc := 0xE100, p := { s.p with i := true }
      mem := [(0x01F9, 0xC9), (0x01FA, 0x02), (0x01FB, 0x01), (0x01FC, 0x03), (0x01FD, 0x04), (0x01FE, 0x10),
        (0x01FF, 0x05), (0xFFF8, 0xE1)] } := rfl
/-- V60-03: with I = 1 the line is not eligible. -/
theorem test_irq_masked :
    let s : State := { start with pc := 0x1005, p := { flags0 with i := true }, irqLine := true, mem := [(0x1005, 0x01)] }
    step s = .next { s with pc := 0x1006 } := rfl
/-- V60-04: NMI with I = 1. -/
theorem test_nmi_entry :
    let s : State := { start with
      pc := 0x2000, sp := 0x0100, p := { flags0 with i := true, z := true }, nmiPending := true
      mem := [(0xFFFC, 0xE2), (0xFFFD, 0x40)] }
    step s = .next { s with
      sp := 0x00F9, pc := 0xE240, nmiPending := false
      mem := [(0x00F9, 0xD4), (0x00FE, 0x20), (0xFFFC, 0xE2), (0xFFFD, 0x40)] } := rfl
/-- V60-05: NMI before IRQ. -/
theorem test_nmi_wins :
    let s : State := { start with
      pc := 0x2000, sp := 0x0100, nmiPending := true, irqLine := true
      mem := [(0xFFF8, 0xE1), (0xFFFC, 0xE2), (0xFFFD, 0x40)] }
    step s = .next { s with
      sp := 0x00F9, pc := 0xE240, p := { s.p with i := true }, nmiPending := false
      mem := [(0x00F9, 0xC0), (0x00FE, 0x20), (0xFFF8, 0xE1), (0xFFFC, 0xE2), (0xFFFD, 0x40)] } := rfl
/-- V60-06, its end: after WAI an NMI stacks nothing. -/
theorem test_nmi_ends_wait :
    let s : State := { start with
      pc := 0x1001, sp := 0x01F9, p := { flags0 with i := true }, waiting := true, irqLine := true
      moves := [{ irqLine := true, resetLine := false, nmi := true, accept := true }]
      mem := [(0xFFFC, 0xE2), (0xFFFD, 0x40)] }
    step s = .next { s with pc := 0xE240, waiting := false, moves := [] } := rfl
/-- V60-06, its middle: the masked line does not end the wait. -/
theorem test_wait_goes_on :
    let s : State := { start with pc := 0x1001, p := { flags0 with i := true }, waiting := true, irqLine := true }
    step s = .next s := rfl
/-- V60-07, its second step: after WAI with I = 0 an IRQ stacks nothing. -/
theorem test_irq_ends_wait :
    let s : State := { start with
      pc := 0x1001, sp := 0x01F9, waiting := true, irqLine := true, mem := [(0xFFF8, 0xE1)] }
    step s = .next { s with pc := 0xE100, p := { s.p with i := true }, waiting := false } := rfl
/-- V60-08: reset, the registers kept. -/
theorem test_reset_step :
    let s : State := { start with
      pc := 0x4321, a := 0x12, sp := 0x0155, p := { flags0 with c := true }, waiting := true, resetLine := true
      nmiPending := true, mem := [(0xFFFE, 0xF0)] }
    step s = .next { s with pc := 0xF000, p := { s.p with i := true }, waiting := false, nmiPending := false } := rfl
/-- R351, the registers drawn: A is the draw number 0, C number 10. -/
theorem test_reset_step_drawn :
    ∃ t, step { start with resetLine := true, cfg := { resetRegs := .drawn } } = .next t ∧
      t.a = Config.freeByte 0 ∧ t.p.c = Config.freeBit 10 ∧ t.p.i = true ∧ t.draws = 11 := ⟨_, rfl, rfl, rfl, rfl, rfl⟩
/-- V60-09: an unassigned opcode is refused. -/
theorem test_refused_unassigned : step start = .refused (.unassignedOpcode 0x00 0x1000) := rfl
/-- V60-10: a `#` opcode is refused without HAS_EXT. -/
theorem test_refused_mul_without_ext :
    step { start with cfg := { extOverride := some false }, mem := [(0x1000, 0x3D)] } =
      .refused (.unassignedOpcode 0x3D 0x1000) := rfl
/-- V60-11: 24 is BCC without HAS_EXT. -/
theorem test_bhs_word_without_ext :
    let s : State := { start with cfg := { extOverride := some false }, mem := [(0x1000, 0x24), (0x1001, 0x02)] }
    step s = .next { s with pc := 0x1004 } := rfl
/-- R2: the parts of the title that have the `#` rows. -/
theorem test_hasExt :
    Variant.hasExt .m6801 = true ∧ Variant.hasExt .m6803 = true ∧ Variant.hasExt .m6800 = false ∧
    Variant.hasExt .m6802 = false ∧ Variant.hasExt .m6808 = false := by decide


/-! ## States and operands that meet the hypotheses of the statements -/

/-- A platform with one stretch of each kind besides `ram` (R58). -/
def mapped : Config where
  memmap := [⟨0x2000, 0x2001, .io⟩, ⟨0x3000, 0x30FF, .unmapped⟩, ⟨0xE000, 0xFFFF, .rom⟩]

/-- `start` on that platform. -/
def mappedStart : State := { start with cfg := mapped }

/-- `start` with NOP at PC. -/
def nopStart : State := { start with mem := [(0x1000, 0x01)] }

theorem witness_DecodeReadsWhatEncodeWrites :
    Instr.wellFormed true (.subd (.imm 0xFFFF)) = true ∧ Instr.wellFormed false (.jsr (.ext 0x0000)) = true := by decide

theorem witness_DecodedBytesAreTheEncoding :
    decode false [0x86, 0xFF, 0x01] = .ok (.ldaa (.imm 0xFF)) [0x01] ∧ decode true [0x3D] = .ok .mul [] := by decide

/-- LDX #1234 in the last two bytes of memory and the first. -/
theorem witness_StepRunsTheDecodedInstruction :
    ∃ s u : State, u = envMove s ∧ boundary u = .run ∧ s.pc = 0xFFFE ∧
      (∀ k, k < Instr.length (.ldx (.imm 0x1234)) → u.answers (u.pc + BitVec.ofNat 16 k) = true) ∧
      decode u.cfg.hasExt [u.mem.read u.pc, u.mem.read (u.pc + 1), u.mem.read (u.pc + 2)] =
        .ok (.ldx (.imm 0x1234)) [] :=
  ⟨{ start with pc := 0xFFFE, mem := [(0x0000, 0x34), (0xFFFE, 0xCE), (0xFFFF, 0x12)] }, _, rfl, rfl, rfl,
    fun _ _ => rfl, rfl⟩

theorem witness_UnassignedOpcodeHasNoSuccessor :
    ∃ s u : State, u = envMove s ∧ boundary u = .run ∧ (fetch8 u).1 ∈ unassignedBytes u.cfg.hasExt :=
  ⟨{ start with mem := [(0x1000, 0x9D)] }, _, rfl, rfl, by decide⟩

/-- With no move left, with a move that requests an NMI, and with one that requests none while one is pending. -/
theorem witness_EnvironmentOwnsTheInputs :
    (∃ s t : State, s.moves = [] ∧ step s = .next t) ∧
      (∃ s t : State, s.moves = [⟨true, false, true, false⟩] ∧ step s = .next t ∧ s.nmiPending = false ∧
        t.nmiPending = true) ∧
      ∃ s t : State, s.moves = [⟨false, false, false, false⟩] ∧ step s = .next t ∧ s.nmiPending = true ∧
        t.nmiPending = true :=
  ⟨⟨nopStart, _, rfl, rfl⟩, ⟨{ nopStart with moves := [⟨true, false, true, false⟩] }, _, rfl, rfl, rfl, rfl⟩,
    ⟨{ nopStart with moves := [⟨false, false, false, false⟩], nmiPending := true }, _, rfl, rfl, rfl, rfl⟩⟩

/-- A request not accepted stays, one accepted does not. -/
theorem witness_NmiStaysPendingUntilTaken :
    (∃ s u t, u = envMove s ∧ step s = .next t ∧ t.nmiPending = true) ∧
      ∃ s u t, u = envMove s ∧ step s = .next t ∧ u.nmiPending = true ∧ t.nmiPending = false :=
  ⟨⟨{ nopStart with nmiPending := true, accept := false }, _, _, rfl, rfl, rfl⟩,
    ⟨{ nopStart with nmiPending := true }, _, _, rfl, rfl, rfl, rfl⟩⟩

/-- Through either interrupt vector. -/
theorem witness_InterruptEntryStacksTheFrame :
    (∃ s u, u = envMove s ∧ boundary u = .interrupt 0xFFF8 ∧ u.waiting = false) ∧
      ∃ s u, u = envMove s ∧ boundary u = .interrupt 0xFFFC ∧ u.waiting = false :=
  ⟨⟨{ start with irqLine := true }, _, rfl, rfl, rfl⟩, ⟨{ start with nmiPending := true }, _, rfl, rfl, rfl⟩⟩

/-- Nothing happens, a reset, an interrupt through either vector. -/
theorem witness_WaitingEndsByInterruptOrReset :
    (∃ s u, u = envMove s ∧ u.waiting = true ∧ boundary u = .wait) ∧
      (∃ s u, u = envMove s ∧ u.waiting = true ∧ boundary u = .reset) ∧
      (∃ s u, u = envMove s ∧ u.waiting = true ∧ boundary u = .interrupt 0xFFF8) ∧
      ∃ s u, u = envMove s ∧ u.waiting = true ∧ boundary u = .interrupt 0xFFFC :=
  ⟨⟨{ start with waiting := true }, _, rfl, rfl, rfl⟩,
    ⟨{ start with waiting := true, resetLine := true }, _, rfl, rfl, rfl⟩,
    ⟨{ start with waiting := true, irqLine := true }, _, rfl, rfl, rfl⟩,
    ⟨{ start with waiting := true, irqLine := true, nmiPending := true }, _, rfl, rfl, rfl⟩⟩

/-- A frame that lies over the top of memory. -/
theorem witness_RtiPullsTheFrame :
    ∃ (s : State) (q : Nat → Byte), s.sp = 0xFFFD ∧
      (∀ k, q k = s.mem.read (pullAddr s.cfg.stack (s.sp + BitVec.ofNat 16 k))) ∧
      ∀ k, k < 7 → s.answers (pullAddr s.cfg.stack (s.sp + BitVec.ofNat 16 k)) = true :=
  ⟨{ start with sp := 0xFFFD }, _, rfl, fun _ => rfl, fun _ _ => rfl⟩

/-- A handler that changes A, and a frame that lies over address 0000. -/
theorem witness_RtiUndoesTheTrap :
    ∃ s t u : State, s.sp = 0x0003 ∧
      (∀ k, k < 7 → s.kindAt (pushAddr s.cfg.stack (s.sp - BitVec.ofNat 16 k)) = .ram) ∧
      exec .swi s = .next t ∧ u.mem = t.mem ∧ u.sp = t.sp ∧ u.cfg = t.cfg ∧ u.a ≠ s.a :=
  ⟨{ start with sp := 0x0003 }, _, { takeTrap vecSwi { start with sp := 0x0003 } with a := 0x55 }, rfl,
    fun _ _ => rfl, rfl, rfl, rfl, rfl, by decide⟩

/-- Under either value of the parameter. -/
theorem witness_ResetStepLoadsTheVector :
    (∃ s u : State, u = envMove s ∧ u.resetLine = true ∧ u.cfg.resetRegs = .kept ∧ u.answers 0xFFFE = true ∧
      u.answers 0xFFFF = true ∧ u.moves = []) ∧
      ∃ s u : State, u = envMove s ∧ u.resetLine = true ∧ u.cfg.resetRegs = .drawn ∧ u.answers 0xFFFE = true ∧
        u.answers 0xFFFF = true :=
  ⟨⟨{ start with resetLine := true }, _, rfl, rfl, rfl, rfl, rfl, rfl⟩,
    ⟨{ start with resetLine := true, cfg := { resetRegs := .drawn } }, _, rfl, rfl, rfl, rfl, rfl⟩⟩

theorem witness_MaskedIrqLineIsInvisible :
    ∃ s t : State, s.moves = [] ∧ s.p.i = true ∧ step (s.withIrq true) = .next t :=
  ⟨{ nopStart with p := { flags0 with i := true } }, _, rfl, rfl, rfl⟩

/-- A step that stores: PSHA with S = 0, to FFFF. -/
theorem witness_StepKeepsMemoryCanonical :
    ∃ s t : State, s.Inv ∧ step s = .next t ∧ t.mem.read 0xFFFF = 0x5A :=
  ⟨{ start with a := 0x5A, sp := 0x0000, mem := [(0x1000, 0x36)] }, _, by decide, rfl, rfl⟩

/-- STAA to the first `rom` byte, and to the `io` byte. -/
theorem witness_StepChangesRamOnly :
    (∃ s t, step s = .next t ∧ s.kindAt 0xE000 = .rom ∧ t.mem.read 0xE000 = 0x00) ∧
      ∃ s t, step s = .next t ∧ s.kindAt 0x2000 = .io ∧ t.ioLog = [.write 0x2000 0x5A] :=
  ⟨⟨{ mappedStart with a := 0x5A, mem := [(0x1000, 0xB7), (0x1001, 0xE0)] }, _, rfl, rfl, rfl⟩,
    ⟨{ mappedStart with a := 0x5A, mem := [(0x1000, 0xB7), (0x1001, 0x20)] }, _, rfl, rfl, rfl⟩⟩

theorem witness_EventsAreOnlyAdded :
    (∃ s t, step s = .next t ∧ t.ioLog = .write 0x2000 0x5A :: s.ioLog) ∧
      ∃ s t, step s = .next t ∧ ∀ addr, s.kindAt addr ≠ .io :=
  ⟨⟨{ mappedStart with a := 0x5A, mem := [(0x1000, 0xB7), (0x1001, 0x20)] }, _, rfl, rfl⟩,
    ⟨nopStart, _, rfl, fun _ h => nomatch h⟩⟩

/-- Flags that have to stay and flags that have to change: LDAA. -/
theorem witness_FlagsFollowTheCard :
    ∃ s t, exec (.ldaa (.imm 0x80)) s = .next t ∧ s.p.c = true ∧ s.p.v = true :=
  ⟨{ start with p := { flags0 with c := true, v := true } }, _, rfl, rfl, rfl⟩

/-- CMPA writes no register at all, WAI none but S. -/
theorem witness_RegistersChangeAsListed :
    (∃ s t, exec (.cmpa (.imm 0x80)) s = .next t) ∧ writes (.cmpa (.imm 0x80)) = {} ∧
      (∃ s t, exec .wai s = .next t) ∧ writes .wai = { sp := true } :=
  ⟨⟨start, _, rfl⟩, rfl, ⟨start, _, rfl⟩, rfl⟩

/-- A store over the top of memory, a push at S = 0, and an instruction that stores nothing. -/
theorem witness_MemoryChangesWhereStored :
    (∃ s t, exec (.std (.ext 0xFFFF)) s = .next t ∧ storedAt (.std (.ext 0xFFFF)) s = [0xFFFF, 0x0000] ∧
      (0x0001 : Word) ∉ storedAt (.std (.ext 0xFFFF)) s) ∧
      (∃ s t, exec .psha s = .next t ∧ storedAt .psha s = [0xFFFF] ∧ (0x0000 : Word) ∉ storedAt .psha s) ∧
      ∃ s t, exec (.tst (.ext 0xFFFF)) s = .next t ∧ storedAt (.tst (.ext 0xFFFF)) s = [] :=
  ⟨⟨start, _, rfl, rfl, by decide⟩, ⟨{ start with sp := 0x0000 }, _, rfl, rfl, by decide⟩, ⟨start, _, rfl, rfl⟩⟩

theorem witness_InstructionsLeaveTheEnvironment :
    ∃ s t, exec (.jmp (.idx 0x10)) s = .next t ∧ Instr.jmp (.idx 0x10) ≠ .wai ∧ s.nmiPending = true :=
  ⟨{ start with nmiPending := true }, _, rfl, nofun, rfl⟩

/-- Where memory answers, also with the second byte at address 0000, and at two `io` addresses. -/
theorem witness_SourcesReadTheOperand :
    (start.answers (ea (.ext 0xFFFF) start) = true ∧ start.answers (ea (.ext 0xFFFF) start + 1) = true) ∧
      ∃ h l, h = memRead8 (ea (.ext 0x2000) mappedStart) mappedStart ∧
        l = memRead8 (ea (.ext 0x2000) mappedStart + 1) h.2 ∧ l.2.ioLog = [.read 0x2001, .read 0x2000] :=
  ⟨by decide, _, _, rfl, rfl, rfl⟩

theorem witness_MemoryActsByKind :
    mappedStart.kindAt 0xDFFF = .ram ∧ mappedStart.kindAt 0xE000 = .rom ∧ mappedStart.kindAt 0xFFFF = .rom ∧
      mappedStart.kindAt 0x2000 = .io ∧ mappedStart.kindAt 0x2001 = .io ∧ mappedStart.kindAt 0x2002 = .ram ∧
      mappedStart.kindAt 0x3000 = .unmapped ∧
      mappedStart.kindAt 0x30FF = .unmapped ∧ mappedStart.kindAt 0x3100 = .ram := by decide

/-- At the top of memory, and at two `io` addresses. -/
theorem witness_StoresAreSeenByReadsAndFetches :
    start.kindAt 0xFFFF = .ram ∧ start.kindAt (0xFFFF + 1) = .ram ∧
      mappedStart.kindAt 0x2000 = .io ∧ mappedStart.kindAt (0x2000 + 1) = .io ∧
      (∃ hi lo : Byte, hi = BitVec.ofNat 8 ((0x1234 : Word).toNat / 256) ∧
        lo = BitVec.ofNat 8 ((0x1234 : Word).toNat % 256)) ∧
      ∃ h l, h = memRead8 0x2000 mappedStart ∧ l = memRead8 (0x2000 + 1) h.2 :=
  ⟨rfl, rfl, rfl, rfl, ⟨_, _, rfl, rfl⟩, _, _, rfl, rfl⟩

theorem witness_StackPrimitivesFollowTheConvention :
    start.cfg.stack = .card ∧ start.toHw6800.cfg.stack = .hw6800 := by decide

theorem witness_TransfersMoveRegisters :
    start.cfg.stack = .card ∧ start.toHw6800.cfg.stack = .hw6800 := by decide

/-- With S = 0, so that the stack lies over the top of memory, under both conventions. -/
theorem witness_PullUndoesPush :
    let s := start.setSP 0x0000
    s.kindAt (pushAddr s.cfg.stack s.sp) = .ram ∧ s.kindAt (pushAddr s.cfg.stack (s.sp - 1)) = .ram ∧
      s.toHw6800.kindAt (pushAddr .hw6800 s.toHw6800.sp) = .ram := by decide

theorem witness_RtsReturnsBehindTheCall :
    let s := start.setSP 0x0000
    s.kindAt (pushAddr s.cfg.stack s.sp) = .ram ∧ s.kindAt (pushAddr s.cfg.stack (s.sp - 1)) = .ram := by decide

/-- Both values of CPX_MODEL. -/
theorem witness_SixteenBitArithmeticIsExact :
    start.cfg.cpx = .card16 ∧ State.cfg { start with cfg := { cpx := .m6800 } } = { cpx := .m6800 } := by decide

/-- A = 9A: both corrections are added (R152). -/
theorem witness_DaaAddsTheCorrection :
    let s := start.setA 0x9A
    ∃ f : Nat, f = (if s.a.toNat % 16 > 9 ∨ s.p.h = true then 6 else 0) +
      (if s.a.toNat / 16 > 9 ∨ s.p.c = true ∨ (s.a.toNat / 16 > 8 ∧ s.a.toNat % 16 > 9) then 96 else 0) ∧
      f = 102 := ⟨102, by decide, rfl⟩

/-- 99 is packed decimal, 9A is not. -/
theorem witness_DaaGivesTheDecimalSum :
    IsBcd (start.setA 0x99).a ∧ IsBcd start.b ∧ IsBcd (src8 (.imm 0x99) start).1 ∧ ¬ IsBcd 0x9A := by
  unfold IsBcd; decide

theorem witness_IncrementsAndDecrementsCount : ∃ m, m = memRead8 (ea (MemOp.ext 0xFFFF).mode start) start := ⟨_, rfl⟩

theorem witness_ComplementsInvertTheBits : ∃ m, m = memRead8 (ea (MemOp.idx 0xFF).mode start) start := ⟨_, rfl⟩

theorem witness_MemoryShiftsMoveOneBit : ∃ m, m = memRead8 (ea (MemOp.ext 0x2000).mode mappedStart) mappedStart := ⟨_, rfl⟩

theorem witness_RotatesTurnNineBits : ∃ m, m = memRead8 (ea (MemOp.ext 0x0000).mode start) start := ⟨_, rfl⟩

theorem witness_ClearsAndTestsSetTheFlags :
    ∃ z : CCR, z = { start.p with n := false, z := true, v := false, c := false } := ⟨_, rfl⟩

theorem witness_LogicCombinesBitByBit : ∃ m, m = (src8 (.imm 0x0F) start).1 := ⟨_, rfl⟩

theorem witness_BranchesTestTheFlags :
    ∃ go : Bool → Result,
      ∀ f, go f = .next (if f = true then { start with pc := BitVec.ofInt 16 (start.pc.toNat + (0x80 : Byte).toInt) } else start) :=
  ⟨fun _ => _, fun _ => rfl⟩

/-- A compare of 00 with 80, whose signed and unsigned orders differ, of each of the three shapes. -/
theorem witness_BranchesAfterCompareReadTheOrder :
    let s : State := { start with b := 0x80 }
    (∃ (t : State) (r m : Byte) (go : Bool → Result),
      (r = s.a ∧ m = (src8 (.imm 0x80) s).1 ∧
        (exec (.cmpa (.imm 0x80)) s = .next t ∨ exec (.suba (.imm 0x80)) s = .next t)) ∧
      ∀ f, go f = .next (if f = true then { t with pc := BitVec.ofInt 16 (t.pc.toNat + (0x80 : Byte).toInt) } else t)) ∧
    (∃ (t : State) (r m : Byte) (go : Bool → Result),
      (r = s.b ∧ m = (src8 (.imm 0x00) s).1 ∧
        (exec (.cmpb (.imm 0x00)) s = .next t ∨ exec (.subb (.imm 0x00)) s = .next t)) ∧
      ∀ f, go f = .next (if f = true then { t with pc := BitVec.ofInt 16 (t.pc.toNat + (0x80 : Byte).toInt) } else t)) ∧
    ∃ (t : State) (r m : Byte) (go : Bool → Result),
      (r = s.a ∧ m = s.b ∧ (exec .cba s = .next t ∨ exec .sba s = .next t)) ∧
      ∀ f, go f = .next (if f = true then { t with pc := BitVec.ofInt 16 (t.pc.toNat + (0x80 : Byte).toInt) } else t) :=
  ⟨⟨_, _, _, fun _ => _, ⟨rfl, rfl, .inl rfl⟩, fun _ => rfl⟩, ⟨_, _, _, fun _ => _, ⟨rfl, rfl, .inr rfl⟩, fun _ => rfl⟩,
    _, _, _, fun _ => _, ⟨rfl, rfl, .inr rfl⟩, fun _ => rfl⟩

theorem witness_StackConventionsAgree :
    start.cfg.stack = .card ∧ (∀ o, Instr.swi ≠ .lds o) ∧ ∀ o, Instr.swi ≠ .sts o := ⟨rfl, nofun, nofun⟩

/-- The last byte of memory, and the first byte above a stretch that is not `ram`. -/
theorem witness_RotatesChainThroughTheCarry :
    start.kindAt (ea (MemOp.ext 0xFFFF).mode start) = .ram ∧
      mappedStart.kindAt (ea (MemOp.ext 0x2002).mode mappedStart) = .ram := by decide

end Sys2Proof.Tests
end

section
/-!
Arithmetic (41_arithmetic.md): each instruction is its helper of Machine/Flags.lean applied to the operands, and the
helper is exact by the laws of Laws/Flags.lean.
-/

namespace Sys2Proof.Machine

/-! ## Byte arithmetic -/

/-- Settles O39: each of the five instructions is `Add8` on its operands, which is exact (`add8_isSum`). -/
theorem addsGiveTheSum : Obligations.AddsGiveTheSum := fun o s =>
  ⟨⟨_, _, rfl, add8_isSum s.a s.b false s.p⟩,
    ⟨_, _, rfl, add8_isSum s.a (src8 o s).1 false s.p⟩,
    ⟨_, _, rfl, add8_isSum s.b (src8 o s).1 false s.p⟩,
    ⟨_, _, rfl, add8_isSum s.a (src8 o s).1 s.p.c s.p⟩,
    ⟨_, _, rfl, add8_isSum s.b (src8 o s).1 s.p.c s.p⟩⟩

/-- Settles O40: each of the eight instructions is `Sub8` on its operands, which is exact (`sub8_isDiff`); a compare
takes the flags of the subtraction of the same operands. -/
theorem subtractsAndComparesGiveTheDifference : Obligations.SubtractsAndComparesGiveTheDifference := fun o s =>
  ⟨⟨_, _, rfl, rfl, sub8_isDiff s.a s.b false s.p⟩,
    ⟨_, _, rfl, rfl, sub8_isDiff s.a (src8 o s).1 false s.p⟩,
    ⟨_, _, rfl, rfl, sub8_isDiff s.b (src8 o s).1 false s.p⟩,
    ⟨_, _, rfl, sub8_isDiff s.a (src8 o s).1 s.p.c s.p⟩,
    ⟨_, _, rfl, sub8_isDiff s.b (src8 o s).1 s.p.c s.p⟩⟩

/-! ## Word arithmetic -/

/-- CPX under `card16` has the flags of the 16-bit subtraction (R151). -/
theorem cpxFlags_card16 (x m : Word) (p : CCR) : cpxFlags .card16 x m p = (sub16 x m p).2 := rfl

/-- CPX under `m6800` has those of the subtraction of the high bytes, Z by the whole words and C as it was (R151). -/
theorem cpxFlags_m6800 (x m : Word) (p : CCR) :
    cpxFlags .m6800 x m p = { (sub8 (hiByte x) (hiByte m) false p).2 with c := p.c, z := decide (x = m) } := rfl

/-- CPX writes P alone, besides what reading its operand does (R151). -/
theorem exec_cpx (o : Src16) (s : State) :
    exec (.cpx o) s = .next { (src16 o s).2 with p := cpxFlags s.cfg.cpx s.x (src16 o s).1 s.p } := rfl

/-- An operation on D puts the high byte of its result into A and the low byte into B (R22, R144, R148). -/
theorem aluD_eq (op : Word → Word → CCR → Word × CCR) (o : Src16) (s : State) :
    aluD op o s = { (src16 o s).2 with
      a := hiByte (op s.d (src16 o s).1 s.p).1
      b := loByte (op s.d (src16 o s).1 s.p).1
      p := (op s.d (src16 o s).1 s.p).2 } := rfl

/-- The two bytes that `D <- v` writes are `v` (R22). -/
theorem hiByte_append_loByte (v : Word) : hiByte v ++ loByte v = v := join_hi_lo v

/-- Settles O41: ADDD and SUBD put the two halves of an exact result into A and B; CPX is an exact subtraction of words
or, under `m6800`, of their high bytes. -/
theorem sixteenBitArithmeticIsExact : Obligations.SixteenBitArithmeticIsExact := by
  intro o s
  refine ⟨⟨_, _, _, congrArg Host.Outcome.next (aluD_eq add16 o s), ?_⟩,
    ⟨_, _, _, congrArg Host.Outcome.next (aluD_eq sub16 o s), ?_⟩, fun hc => ?_, fun hc => ?_⟩
  · rw [hiByte_append_loByte]
    exact add16_isSum (s.a ++ s.b) (src16 o s).1 s.p
  · rw [hiByte_append_loByte]
    exact sub16_isDiff (s.a ++ s.b) (src16 o s).1 s.p
  · exact ⟨_, _, by rw [exec_cpx, hc, cpxFlags_card16], sub16_isDiff s.x (src16 o s).1 s.p⟩
  · exact ⟨_, _, by rw [exec_cpx, hc, cpxFlags_m6800],
      sub8_isDiff (hiByte s.x) (hiByte (src16 o s).1) false s.p⟩

end Sys2Proof.Machine
end

section
/-!
Operands, memory and the stack primitives (00_scope.md R12, R13; 30_encoding.md R92).
-/

namespace Sys2Proof.Machine

/-! ## The halves of a word as numbers -/

theorem hiByte_eq_ofNat (v : Word) : hiByte v = BitVec.ofNat 8 (v.toNat / 256) := by
  apply BitVec.eq_of_toNat_eq
  rw [hiByte_toNat, BitVec.toNat_ofNat]
  omega

theorem loByte_eq_ofNat (v : Word) : loByte v = BitVec.ofNat 8 v.toNat := by
  apply BitVec.eq_of_toNat_eq
  rw [loByte_toNat, BitVec.toNat_ofNat]

theorem loByte_eq_ofNat_mod (v : Word) : loByte v = BitVec.ofNat 8 (v.toNat % 256) := by
  rw [loByte_eq_ofNat, ← BitVec.toNat_inj, BitVec.toNat_ofNat, BitVec.toNat_ofNat, Nat.mod_mod]

/-! ## Sources -/

/-- Settles O30: the case with memory is the law of a 16-bit source, the others are the definitions of R87 and R92. -/
theorem sourcesReadTheOperand : Obligations.SourcesReadTheOperand := by
  intro s n nn m
  refine ⟨src8_imm n s, src16_imm nn s, rfl, ?_, src16_memory m s⟩
  rintro h l rfl rfl
  rfl

/-! ## Memory accesses of two bytes -/

/-- Two `io` reads are recorded in the order made (R54, R58). -/
theorem memRead16_ioLog (addr : Word) (s : State) (h : s.kindAt addr = .io) (h' : s.kindAt (addr + 1) = .io) :
    (memRead16 addr s).2.ioLog = .read (addr + 1) :: .read addr :: s.ioLog := by
  have second : ((memRead8 addr s).2).kindAt (addr + 1) = .io := by rw [memRead8_kindAt, h']
  rw [memRead16, memRead8_io _ _ second, memRead8_io _ _ h]
  rfl

/-- A write to an `io` address is recorded (R58). -/
theorem memWrite8_io (addr : Word) (v : Byte) (s : State) (h : s.kindAt addr = .io) :
    memWrite8 addr v s = s.record (.write addr v) := by
  simp only [memWrite8, h]

/-- Two `io` writes are recorded in the order made (R54, R58). -/
theorem memWrite16_ioLog (addr v : Word) (s : State) (h : s.kindAt addr = .io) (h' : s.kindAt (addr + 1) = .io) :
    (memWrite16 addr v s).ioLog = .write (addr + 1) (loByte v) :: .write addr (hiByte v) :: s.ioLog := by
  rw [memWrite16, memWrite8_io (addr + 1) _ _ (by rw [memWrite8_kindAt, h']), memWrite8_io addr _ _ h]
  rfl

/-- `ram` answers a read (R58). -/
theorem answers_of_ram {s : State} {addr : Word} (h : s.kindAt addr = .ram) : s.answers addr = true := by
  simp [State.answers, h]

/-- The address above another is another, also where it wraps. -/
theorem ne_add_one (addr : Word) : addr ≠ addr + 1 := by bv_omega

/-- In `ram` the high byte of a word written lies at the address (R12, R50). -/
theorem memWrite16_read_hi (addr v : Word) (s : State) (h : s.kindAt addr = .ram) :
    (memWrite16 addr v s).mem.read addr = hiByte v := by
  rw [memWrite16, memWrite8_others _ _ _ _ (ne_add_one addr), memWrite8_read, if_pos ⟨h, rfl⟩]

/-- In `ram` its low byte lies at the next (R12, R50). -/
theorem memWrite16_read_lo (addr v : Word) (s : State) (h : s.kindAt (addr + 1) = .ram) :
    (memWrite16 addr v s).mem.read (addr + 1) = loByte v := by
  rw [memWrite16, memWrite8_read, memWrite8_kindAt, if_pos ⟨h, rfl⟩]

/-- In `ram` a fetch gets a byte stored at PC (R51, R64). -/
theorem fetch8_of_memWrite8 (addr : Word) (n : Byte) (s : State) (h : s.kindAt addr = .ram) :
    (fetch8 ((memWrite8 addr n s).setPC addr)).1 = n := by
  have answer : ((memWrite8 addr n s).setPC addr).answers addr = true :=
    answers_of_ram (by rw [State.setPC_kindAt, memWrite8_kindAt, h])
  rw [fetch8_memory _ answer, State.setPC_pc, State.setPC_mem, memWrite8_read, if_pos ⟨h, rfl⟩]

/-- Settles O32: the order of the two bytes is that of the definitions, the events follow it, and in `ram` each byte is
read back where it was written. -/
theorem storesAreSeenByReadsAndFetches : Obligations.StoresAreSeenByReadsAndFetches := by
  rintro addr v n hi lo s rfl rfl
  rw [← hiByte_eq_ofNat, ← loByte_eq_ofNat_mod]
  refine ⟨?_, rfl, fun h h' => ⟨memRead16_ioLog addr s h h', memWrite16_ioLog addr v s h h'⟩, fun h => ⟨fun h' => ?_, ?_⟩⟩
  · rintro h l rfl rfl
    rfl
  · have answer : (memWrite16 addr v s).answers addr = true :=
      answers_of_ram (by rw [memWrite16_kindAt, h])
    have answer' : (memWrite16 addr v s).answers (addr + 1) = true :=
      answers_of_ram (by rw [memWrite16_kindAt, h'])
    rw [memRead16_memory _ _ answer answer', memRead8_memory _ _ answer, memRead8_memory _ _ answer',
      memWrite16_read_hi addr v s h, memWrite16_read_lo addr v s h']
    exact ⟨hiByte_toNat v, loByte_toNat v, join_hi_lo v⟩
  · exact fetch8_of_memWrite8 addr n s h

/-! ## The stack primitives -/

/-- A push under `card`: S is lowered, then the byte stored where it points (R13). -/
theorem push8_card (v : Byte) (s : State) (h : s.cfg.stack = .card) :
    push8 v s = memWrite8 (s.sp - 1) v (s.setSP (s.sp - 1)) := by
  simp only [push8, h, pushAddr]

/-- A push under `hw6800`: the byte is stored where S points, then S lowered (R13). -/
theorem push8_hw6800 (v : Byte) (s : State) (h : s.cfg.stack = .hw6800) :
    push8 v s = (memWrite8 s.sp v s).setSP (s.sp - 1) := by
  simp only [push8, h, pushAddr]

/-- A pull under `card`: the byte is read where S points, then S raised (R13). -/
theorem pull8_card (s : State) (h : s.cfg.stack = .card) :
    pull8 s = ((memRead8 s.sp s).1, (memRead8 s.sp s).2.setSP (s.sp + 1)) := by
  simp only [pull8, h, pullAddr]

/-- A pull under `hw6800`: S is raised, then the byte read where it points (R13). -/
theorem pull8_hw6800 (s : State) (h : s.cfg.stack = .hw6800) :
    pull8 s = memRead8 (s.sp + 1) (s.setSP (s.sp + 1)) := by
  simp only [pull8, h, pullAddr]

/-- Settles O33: the primitives by convention, and the halves of the word pushed as numbers. -/
theorem stackPrimitivesFollowTheConvention : Obligations.StackPrimitivesFollowTheConvention := by
  intro s v w
  refine ⟨fun h => ⟨push8_card v s h, ?_, ?_⟩, fun h => ⟨push8_hw6800 v s h, pull8_hw6800 s h⟩, ?_, rfl, rfl⟩
  · rw [pull8_card s h]
  · rw [pull8_card s h]
    rfl
  · rw [push16, hiByte_eq_ofNat, loByte_eq_ofNat]

end Sys2Proof.Machine
end

section
/-!
Exceptions (00_scope.md R14; 60_exceptions.md): the entry into a handler, the software trap, WAI and RTI.
-/

namespace Sys2Proof.Machine

/-! ## Entering a handler (R304, R306) -/

/-- Entering a handler from a state that has the flags and the parameters of `u`: what lies between the two is the
stacking of the frame. -/
theorem enterHandler_inHandler {u s : State} (vec : Word) (hp : s.p = u.p) (hc : s.cfg = u.cfg) :
    InHandler vec u (enterHandler vec s) where
  flags := by rw [enterHandler_p, hp]
  target h h' := by
    rw [enterHandler_mem, enterHandler_pc vec s (by rw [answers_of_cfg hc, h]) (by rw [answers_of_cfg hc, h'])]

/-- Entering a handler keeps a frame stacked before it. -/
theorem enterHandler_stacksFrame {u s : State} (vec : Word) (h : StacksFrame u s) :
    StacksFrame u (enterHandler vec s) :=
  stacksFrame_of_eq h (enterHandler_sp vec s) (enterHandler_mem vec s) (enterHandler_a vec s) (enterHandler_b vec s)
    (enterHandler_x vec s)

/-! ## An interrupt (R302, R310, R311) -/

/-- The vector of an eligible interrupt is that of NMI, which is pending, or that of IRQ with no NMI pending. -/
theorem eligible_eq_some {s : State} {vec : Word} (h : eligible s = some vec) :
    (s.nmiPending = true ∧ vec = vecNmi) ∨ (s.nmiPending = false ∧ vec = vecIrq) := by
  unfold eligible at h
  split at h
  case isTrue pending => exact .inl ⟨pending, (Option.some.inj h).symm⟩
  case isFalse pending =>
    split at h
    case isTrue => exact .inr ⟨by simpa using pending, (Option.some.inj h).symm⟩
    case isFalse => cases h

/-- An interrupt taken at a boundary was eligible. -/
theorem eligible_of_boundary {s : State} {vec : Word} (h : boundary s = .interrupt vec) : eligible s = some vec := by
  unfold boundary at h
  cases he : eligible s with
  | none =>
    rw [he] at h
    grind
  | some v =>
    rw [he] at h
    grind

/-- After an interrupt entry no NMI is pending: NMI entry clears it, and IRQ is taken only where none is (R304, R310). -/
theorem takeInterrupt_clears_nmiPending {u : State} {vec : Word} (h : boundary u = .interrupt vec) :
    (takeInterrupt vec u).nmiPending = false := by
  rw [takeInterrupt_nmiPending]
  rcases eligible_eq_some (eligible_of_boundary h) with ⟨_, rfl⟩ | ⟨none_pending, _⟩
  · exact if_pos rfl
  · rw [none_pending, ite_self]

/-- Where the processor does not wait, an interrupt enters its handler from the state with the frame stacked, `waiting`
and perhaps `nmi_pending` being cleared (R304). -/
theorem takeInterrupt_of_running (vec : Word) (u : State) (running : u.waiting = false) :
    ∃ n, takeInterrupt vec u = enterHandler vec (((stackRegs u).setWaiting false).setNmiPending n) := by
  simp only [takeInterrupt, running, Bool.false_eq_true, if_false]
  split
  · exact ⟨false, rfl⟩
  · exact ⟨(stackRegs u).nmiPending, rfl⟩

/-- An interrupt entry stacks the frame where the processor does not wait, and enters the handler (R304). -/
theorem takeInterrupt_stacksFrame (vec : Word) (u : State) (running : u.waiting = false) :
    StacksFrame u (takeInterrupt vec u) ∧ InHandler vec u (takeInterrupt vec u) := by
  obtain ⟨n, entry⟩ := takeInterrupt_of_running vec u running
  rw [entry]
  exact ⟨enterHandler_stacksFrame vec (stacksFrame_of_eq (stackRegs_stacksFrame u) rfl rfl rfl rfl rfl),
    enterHandler_inHandler vec (stackRegs_p u) (stackRegs_cfg u)⟩

/-- A step that takes an interrupt answers the state after the entry (R320). -/
theorem step_of_interrupt {s : State} {vec : Word} (h : boundary (envMove s) = .interrupt vec) :
    step s = .next (takeInterrupt vec (envMove s)) := by
  simp only [step, moveThenAct, act, h]

/-- Settles O12: the step is the interrupt entry, which stacks the frame and enters the handler. -/
theorem interruptEntryStacksTheFrame : Obligations.InterruptEntryStacksTheFrame := by
  rintro s u vec rfl accepted running
  obtain ⟨frame, handler⟩ := takeInterrupt_stacksFrame vec _ running
  exact ⟨_, step_of_interrupt accepted, frame, handler, takeInterrupt_waiting vec _,
    takeInterrupt_clears_nmiPending accepted⟩

/-! ## SWI, WAI and RTI (R249 to R251) -/

/-- Settles O14: the trap is a handler entry from the state `stackRegs` leaves. -/
theorem swiTakesTheTrap : Obligations.SwiTakesTheTrap := by
  intro s
  refine ⟨enterHandler vecSwi (stackRegs s), rfl, enterHandler_stacksFrame vecSwi (stackRegs_stacksFrame s),
    enterHandler_inHandler vecSwi (stackRegs_p s) (stackRegs_cfg s), ?_, ?_⟩
  · rw [enterHandler_waiting, stackRegs_waiting]
  · rw [enterHandler_nmiPending, stackRegs_nmiPending]

/-- Settles O15: besides stacking the frame WAI writes `waiting` alone. -/
theorem waiStacksAndWaits : Obligations.WaiStacksAndWaits := fun s =>
  ⟨(stackRegs s).setWaiting true, rfl, stacksFrame_of_eq (stackRegs_stacksFrame s) rfl rfl rfl rfl rfl, rfl,
    stackRegs_p s, stackRegs_pc s, stackRegs_nmiPending s⟩

/-- RTI is the return from an exception (R250). -/
theorem exec_rti (s : State) : exec .rti s = .next (unstackRegs s) := rfl

/-- Settles O16: S and memory by the frame laws of `unstackRegs`, the registers by `unstackRegs_memory`. -/
theorem rtiPullsTheFrame : Obligations.RtiPullsTheFrame := by
  intro s q hq
  refine ⟨⟨unstackRegs s, exec_rti s, unstackRegs_sp s, unstackRegs_mem s⟩, fun answer => ?_⟩
  rw [exec_rti, unstackRegs_memory s q hq answer]
  rfl

end Sys2Proof.Machine
end

section
/-!
The environment's inputs and the parameters (00_scope.md R7; 60_exceptions.md R320, R323): only `envMove` writes the
inputs, and nothing writes the parameters.
-/

namespace Sys2Proof.Machine

/-! ## What no instruction writes -/

/-- The parameters, the lines, the environment's choice and its coming moves. -/
def State.inputs (s : State) : Config × Bool × Bool × Bool × List EnvMove :=
  (s.cfg, s.irqLine, s.resetLine, s.accept, s.moves)

theorem inputs_eq_iff {s t : State} :
    t.inputs = s.inputs ↔ t.cfg = s.cfg ∧ t.irqLine = s.irqLine ∧ t.resetLine = s.resetLine ∧ t.accept = s.accept ∧
      t.moves = s.moves := by
  simp [State.inputs]

/-- No instruction writes them: the cases follow the shared operation that an instruction is written with. -/
theorem exec_inputs {i : Instr} {s t : State} (h : exec i s = .next t) : t.inputs = s.inputs := by
  cases i with
  | nop | tap | tpa | clv | sev | clc | sec | cli | sei | tab | tba | tsx | txs | ins | des | inx | dex | abx | mul | aba
  | sba | cba | daa | lsrd | asld =>
    cases h; rfl
  | nega | coma | lsra | asra | asla | tsta | clra | negb | comb | lsrb | asrb | aslb | tstb | clrb =>
    cases h; rfl
  | inca | deca | incb | decb => cases h; simp [State.inputs, modifyAcc, inc8, dec8]
  | rola | rora | rolb | rorb => cases h; simp [State.inputs, modifyAcc, rol8, ror8]
  | neg o | com o | lsr o | asr o | asl o => cases h; simp [State.inputs, modifyMem, withFlags]
  | inc o | dec o => cases h; simp [State.inputs, modifyMem, inc8, dec8]
  | rol o | ror o => cases h; simp [State.inputs, modifyMem, rol8, ror8]
  | tst o | clr o | jmp o => cases h; simp [State.inputs]
  | bra rel | brn rel | bhi rel | bls rel | bcc rel | bhs rel | bcs rel | blo rel | bne rel | beq rel | bvc rel | bvs rel
  | bpl rel | bmi rel | bge rel | blt rel | bgt rel | ble rel =>
    cases h; simp [State.inputs]
  | bsr rel | jsr o => cases h; simp [State.inputs, callSubroutine]
  | rts => cases h; simp [State.inputs, returnFromSubroutine]
  | psha | pshb | pshx => cases h; simp [State.inputs]
  | pula | pulb | pulx => cases h; simp [State.inputs, pullAcc, pullX]
  | swi => cases h; simp [State.inputs, takeTrap]
  | wai | rti => cases h; simp [State.inputs]
  | adda o | addb o | adca o | adcb o | suba o | subb o | sbca o | sbcb o => cases h; simp [State.inputs, aluAcc]
  | cmpa o | cmpb o => cases h; simp [State.inputs, compareAcc]
  | anda o | andb o | eora o | eorb o | oraa o | orab o => cases h; simp [State.inputs, logicAcc]
  | bita o | bitb o => cases h; simp [State.inputs, bitTest]
  | addd o | subd o => cases h; simp [State.inputs, aluD]
  | cpx o => cases h; simp [State.inputs]
  | ldaa o | ldab o => cases h; simp [State.inputs, loadAcc]
  | ldd o | lds o | ldx o => cases h; simp [State.inputs, load16]
  | staa o | stab o => cases h; simp [State.inputs, storeAcc]
  | std o | sts o | stx o => cases h; simp [State.inputs, store16]

/-- A step leaves the inputs as the environment's move set them, and the parameters as they were (R7, R323). -/
theorem step_inputs {s t : State} (h : step s = .next t) : t.inputs = (envMove s).inputs := by
  rcases step_cases s t h with ⟨_, rfl⟩ | ⟨vec, _, rfl⟩ | ⟨_, rfl⟩ | ⟨_, i, u, fetched, executed⟩
  · simp [State.inputs]
  · simp [State.inputs]
  · rfl
  · obtain ⟨k, d, l, _, _, rfl⟩ := fetchInstr_state _ _ _ fetched
    rw [exec_inputs executed]
    rfl

/-- Settles O10: the two cases of `envMove`, and the inputs along a step by `step_inputs`. -/
theorem environmentOwnsTheInputs : Obligations.EnvironmentOwnsTheInputs := by
  intro s
  refine ⟨fun none_left => ?_, fun m rest moves => ?_, fun t h => ?_⟩
  · simp only [envMove, none_left]
  · simp only [envMove, moves]
  · simpa using inputs_eq_iff.1 (step_inputs h)

end Sys2Proof.Machine
end

section
/-!
The two stack conventions (00_scope.md R13). The change of convention `State.toHw6800` commutes with every shared operation:
with those that use neither S nor the convention in any state, with the stack primitives from a state under `card`. Each law
moves `toHw6800` to the outside, so that the meaning of an instruction follows from those of its operations.
-/

namespace Sys2Proof.Machine

/-! ## What the change of convention leaves alone -/

section
variable (s : State)

@[simp] theorem toHw6800_a : s.toHw6800.a = s.a := rfl
@[simp] theorem toHw6800_b : s.toHw6800.b = s.b := rfl
@[simp] theorem toHw6800_x : s.toHw6800.x = s.x := rfl
@[simp] theorem toHw6800_sp : s.toHw6800.sp = s.sp - 1 := rfl
@[simp] theorem toHw6800_pc : s.toHw6800.pc = s.pc := rfl
@[simp] theorem toHw6800_p : s.toHw6800.p = s.p := rfl
@[simp] theorem toHw6800_mem : s.toHw6800.mem = s.mem := rfl
@[simp] theorem toHw6800_waiting : s.toHw6800.waiting = s.waiting := rfl
@[simp] theorem toHw6800_draws : s.toHw6800.draws = s.draws := rfl
@[simp] theorem toHw6800_stack : s.toHw6800.cfg.stack = .hw6800 := rfl
@[simp] theorem toHw6800_vUnknown : s.toHw6800.cfg.vUnknown = s.cfg.vUnknown := rfl
@[simp] theorem toHw6800_cpx : s.toHw6800.cfg.cpx = s.cfg.cpx := rfl
@[simp] theorem toHw6800_kindAt (addr : Word) : s.toHw6800.kindAt addr = s.kindAt addr := rfl
@[simp] theorem toHw6800_acc (r : Acc) : s.toHw6800.acc r = s.acc r := by cases r <;> rfl
@[simp] theorem toHw6800_d : s.toHw6800.d = s.d := rfl
@[simp] theorem toHw6800_pRead : pRead s.toHw6800 = pRead s := rfl
@[simp] theorem toHw6800_ea (m : Mode) : ea m s.toHw6800 = ea m s := by cases m <;> rfl
@[simp] theorem toHw6800_relTarget (rel : Byte) : relTarget rel s.toHw6800 = relTarget rel s := rfl

/-! ## Updates of fields it does not touch -/

@[simp] theorem toHw6800_setA (v : Byte) : s.toHw6800.setA v = (s.setA v).toHw6800 := rfl
@[simp] theorem toHw6800_setB (v : Byte) : s.toHw6800.setB v = (s.setB v).toHw6800 := rfl
@[simp] theorem toHw6800_setX (v : Word) : s.toHw6800.setX v = (s.setX v).toHw6800 := rfl
@[simp] theorem toHw6800_setPC (v : Word) : s.toHw6800.setPC v = (s.setPC v).toHw6800 := rfl
@[simp] theorem toHw6800_setP (v : CCR) : s.toHw6800.setP v = (s.setP v).toHw6800 := rfl
@[simp] theorem toHw6800_setI (f : Bool) : s.toHw6800.setI f = (s.setI f).toHw6800 := rfl
@[simp] theorem toHw6800_setMem (v : Memory) : s.toHw6800.setMem v = (s.setMem v).toHw6800 := rfl
@[simp] theorem toHw6800_setWaiting (f : Bool) : s.toHw6800.setWaiting f = (s.setWaiting f).toHw6800 := rfl
@[simp] theorem toHw6800_setNmiPending (f : Bool) :
    s.toHw6800.setNmiPending f = (s.setNmiPending f).toHw6800 := rfl
@[simp] theorem toHw6800_record (e : IoEvent) : s.toHw6800.record e = (s.record e).toHw6800 := rfl
@[simp] theorem toHw6800_setD (v : Word) : s.toHw6800.setD v = (s.setD v).toHw6800 := rfl
@[simp] theorem toHw6800_setAcc (r : Acc) (v : Byte) : s.toHw6800.setAcc r v = (s.setAcc r v).toHw6800 := by
  cases r <;> rfl

/-- S under `hw6800` is the S of `card` less one. -/
theorem toHw6800_setSP (v : Word) : s.toHw6800.setSP (v - 1) = (s.setSP v).toHw6800 := rfl

/-! ## Draws, memory and operands -/

@[simp] theorem toHw6800_drawBit : drawBit s.toHw6800 = (drawBit s).map id State.toHw6800 := rfl
@[simp] theorem toHw6800_drawByte : drawByte s.toHw6800 = (drawByte s).map id State.toHw6800 := rfl

@[simp] theorem toHw6800_unknownV (f : Bool) : unknownV f s.toHw6800 = (unknownV f s).map id State.toHw6800 := by
  simp only [unknownV, toHw6800_vUnknown]
  split <;> simp

@[simp] theorem toHw6800_memRead8 (addr : Word) :
    memRead8 addr s.toHw6800 = (memRead8 addr s).map id State.toHw6800 := by
  simp only [memRead8, toHw6800_kindAt]
  split <;> simp

@[simp] theorem toHw6800_memRead16 (addr : Word) :
    memRead16 addr s.toHw6800 = (memRead16 addr s).map id State.toHw6800 := by
  simp [memRead16]

@[simp] theorem toHw6800_memWrite8 (addr : Word) (v : Byte) :
    memWrite8 addr v s.toHw6800 = (memWrite8 addr v s).toHw6800 := by
  simp only [memWrite8, toHw6800_kindAt]
  split <;> simp

@[simp] theorem toHw6800_memWrite16 (addr v : Word) :
    memWrite16 addr v s.toHw6800 = (memWrite16 addr v s).toHw6800 := by
  simp [memWrite16]

@[simp] theorem toHw6800_src8 (o : Src8) : src8 o s.toHw6800 = (src8 o s).map id State.toHw6800 := by
  cases o <;> simp [src8]

@[simp] theorem toHw6800_src16 (o : Src16) : src16 o s.toHw6800 = (src16 o s).map id State.toHw6800 := by
  cases o <;> simp [src16]

/-! ## The shared operations of the instructions -/

theorem toHw6800_modifyAcc (r : Acc) (f : Byte → State → Byte × State)
    (hf : ∀ m t, f m t.toHw6800 = (f m t).map id State.toHw6800) :
    modifyAcc r f s.toHw6800 = (modifyAcc r f s).toHw6800 := by
  simp [modifyAcc, hf]

theorem toHw6800_modifyMem (o : MemOp) (f : Byte → State → Byte × State)
    (hf : ∀ m t, f m t.toHw6800 = (f m t).map id State.toHw6800) :
    modifyMem o f s.toHw6800 = (modifyMem o f s).toHw6800 := by
  simp [modifyMem, hf]

@[simp] theorem toHw6800_branchIf (c : Bool) (rel : Byte) :
    branchIf c rel s.toHw6800 = (branchIf c rel s).toHw6800 := by
  cases c <;> rfl

end

theorem toHw6800_withFlags (f : Byte → CCR → Byte × CCR) (m : Byte) (s : State) :
    withFlags f m s.toHw6800 = (withFlags f m s).map id State.toHw6800 := rfl

theorem toHw6800_inc8 (m : Byte) (s : State) : inc8 m s.toHw6800 = (inc8 m s).map id State.toHw6800 := by
  simp [inc8]

theorem toHw6800_dec8 (m : Byte) (s : State) : dec8 m s.toHw6800 = (dec8 m s).map id State.toHw6800 := by
  simp [dec8]

theorem toHw6800_rol8 (m : Byte) (s : State) : rol8 m s.toHw6800 = (rol8 m s).map id State.toHw6800 := by
  simp [rol8]

theorem toHw6800_ror8 (m : Byte) (s : State) : ror8 m s.toHw6800 = (ror8 m s).map id State.toHw6800 := by
  simp [ror8]

/-! ## The stack -/

/-- A byte write neither reads nor writes S. -/
theorem memWrite8_setSP (addr : Word) (v : Byte) (s : State) (w : Word) :
    memWrite8 addr v (s.setSP w) = (memWrite8 addr v s).setSP w := by
  simp only [memWrite8, State.setSP_kindAt]
  split <;> rfl

/-- A byte read neither reads nor writes S. -/
theorem memRead8_setSP (addr : Word) (s : State) (w : Word) :
    memRead8 addr (s.setSP w) = (memRead8 addr s).map id fun t => t.setSP w := by
  simp only [memRead8, State.setSP_kindAt]
  split <;> rfl

section
variable {s : State} (card : s.cfg.stack = .card)
include card

/-- A push stores the byte at the same address under either convention, one below the last byte pushed (R13). -/
theorem toHw6800_push8 (v : Byte) : push8 v s.toHw6800 = (push8 v s).toHw6800 := by
  calc push8 v s.toHw6800
      = (memWrite8 (s.sp - 1) v s.toHw6800).setSP (s.sp - 1 - 1) := push8_hw6800 v _ (toHw6800_stack s)
    _ = ((memWrite8 (s.sp - 1) v s).setSP (s.sp - 1)).toHw6800 := by rw [toHw6800_memWrite8, toHw6800_setSP]
    _ = (push8 v s).toHw6800 := by rw [push8_card v s card, memWrite8_setSP]

/-- A pull reads the same address under either convention, that of the last byte pushed (R13). -/
theorem toHw6800_pull8 : pull8 s.toHw6800 = (pull8 s).map id State.toHw6800 := by
  calc pull8 s.toHw6800
      = memRead8 (s.sp - 1 + 1) (s.toHw6800.setSP (s.sp - 1 + 1)) := pull8_hw6800 _ (toHw6800_stack s)
    _ = memRead8 s.sp (s.toHw6800.setSP (s.sp + 1 - 1)) := by rw [BitVec.sub_add_cancel, BitVec.add_sub_cancel]
    _ = (memRead8 s.sp (s.setSP (s.sp + 1))).map id State.toHw6800 := by rw [toHw6800_setSP, toHw6800_memRead8]
    _ = (pull8 s).map id State.toHw6800 := by rw [pull8_card s card, memRead8_setSP]; rfl

theorem toHw6800_push16 (v : Word) : push16 v s.toHw6800 = (push16 v s).toHw6800 := by
  simp [push16, toHw6800_push8, card]

theorem toHw6800_pull16 : pull16 s.toHw6800 = (pull16 s).map id State.toHw6800 := by
  simp [pull16, toHw6800_pull8, card]

theorem toHw6800_stackRegs : stackRegs s.toHw6800 = (stackRegs s).toHw6800 := by
  simp [stackRegs, toHw6800_push8, toHw6800_push16, card]

theorem toHw6800_unstackRegs : unstackRegs s.toHw6800 = (unstackRegs s).toHw6800 := by
  simp [unstackRegs, toHw6800_pull8, toHw6800_pull16, card]

theorem toHw6800_callSubroutine (target : Word) :
    callSubroutine target s.toHw6800 = (callSubroutine target s).toHw6800 := by
  simp [callSubroutine, toHw6800_push16, card]

theorem toHw6800_returnFromSubroutine : returnFromSubroutine s.toHw6800 = (returnFromSubroutine s).toHw6800 := by
  simp [returnFromSubroutine, toHw6800_pull16, card]

end

/-! ## Handlers and interrupts (R304) -/

@[simp] theorem toHw6800_enterHandler (vec : Word) (s : State) :
    enterHandler vec s.toHw6800 = (enterHandler vec s).toHw6800 := by
  simp [enterHandler]

/-- An interrupt entry is the same under either convention. -/
theorem toHw6800_takeInterrupt {s : State} (card : s.cfg.stack = .card) (vec : Word) :
    takeInterrupt vec s.toHw6800 = (takeInterrupt vec s).toHw6800 := by
  simp only [takeInterrupt, toHw6800_waiting, toHw6800_stackRegs card]
  split <;> split <;> simp

/-! ## The instructions -/

/-- What an instruction answers changes convention as the state in it does. -/
theorem next_toHw6800 {t u : State} (h : u = t.toHw6800) : (.next u : Result) = toHw6800 (.next t) :=
  congrArg Host.Outcome.next h

/-- Executing an instruction commutes with the change of convention as the operation it is written with does. -/
theorem toHw6800_exec {s : State} (card : s.cfg.stack = .card) (i : Instr) (lds : ∀ o, i ≠ .lds o)
    (sts : ∀ o, i ≠ .sts o) : exec i s.toHw6800 = toHw6800 (exec i s) := by
  cases i with
  | lds o => exact absurd rfl (lds o)
  | sts o => exact absurd rfl (sts o)
  | nop | tap | tpa | clv | sev | clc | sec | cli | sei | tab | tba | inx | dex | abx | mul | aba | sba | cba | daa | lsrd
  | asld =>
    rfl
  | nega | coma | lsra | asra | asla | tsta | clra | negb | comb | lsrb | asrb | aslb | tstb | clrb => rfl
  | inca | incb => exact next_toHw6800 (toHw6800_modifyAcc s _ _ toHw6800_inc8)
  | deca | decb => exact next_toHw6800 (toHw6800_modifyAcc s _ _ toHw6800_dec8)
  | rola | rolb => exact next_toHw6800 (toHw6800_modifyAcc s _ _ toHw6800_rol8)
  | rora | rorb => exact next_toHw6800 (toHw6800_modifyAcc s _ _ toHw6800_ror8)
  | neg o | com o | lsr o | asr o | asl o =>
    exact next_toHw6800 (toHw6800_modifyMem s o _ (toHw6800_withFlags _))
  | inc o => exact next_toHw6800 (toHw6800_modifyMem s o _ toHw6800_inc8)
  | dec o => exact next_toHw6800 (toHw6800_modifyMem s o _ toHw6800_dec8)
  | rol o => exact next_toHw6800 (toHw6800_modifyMem s o _ toHw6800_rol8)
  | ror o => exact next_toHw6800 (toHw6800_modifyMem s o _ toHw6800_ror8)
  | tst o | clr o | jmp o => exact next_toHw6800 (by simp)
  | bra rel | brn rel | bhi rel | bls rel | bcc rel | bhs rel | bcs rel | blo rel | bne rel | beq rel | bvc rel | bvs rel
  | bpl rel | bmi rel | bge rel | blt rel | bgt rel | ble rel =>
    exact next_toHw6800 (toHw6800_branchIf s _ rel)
  | bsr rel | jsr o => exact next_toHw6800 (by rw [toHw6800_callSubroutine card]; simp)
  | rts => exact next_toHw6800 (toHw6800_returnFromSubroutine card)
  | ins =>
    exact next_toHw6800 (by rw [← toHw6800_setSP, toHw6800_sp, BitVec.sub_add_cancel, BitVec.add_sub_cancel])
  | des => exact next_toHw6800 (toHw6800_setSP s (s.sp - 1))
  | tsx => exact next_toHw6800 (by simp [tsxValue, card])
  | txs => exact next_toHw6800 (by rw [card]; exact toHw6800_setSP s s.x)
  | psha | pshb => exact next_toHw6800 (toHw6800_push8 card _)
  | pshx => exact next_toHw6800 (toHw6800_push16 card _)
  | pula | pulb | pulx => exact next_toHw6800 (by simp [pullAcc, pullX, toHw6800_pull8 card, toHw6800_pull16 card])
  | swi => exact next_toHw6800 (by simp [takeTrap, toHw6800_stackRegs card])
  | wai => exact next_toHw6800 (by simp [toHw6800_stackRegs card])
  | rti => exact next_toHw6800 (toHw6800_unstackRegs card)
  | adda o | addb o | adca o | adcb o | suba o | subb o | sbca o | sbcb o => exact next_toHw6800 (by simp [aluAcc])
  | cmpa o | cmpb o => exact next_toHw6800 (by simp [compareAcc])
  | anda o | andb o | eora o | eorb o | oraa o | orab o => exact next_toHw6800 (by simp [logicAcc])
  | bita o | bitb o => exact next_toHw6800 (by simp [bitTest])
  | addd o | subd o => exact next_toHw6800 (by simp [aluD])
  | cpx o => exact next_toHw6800 (by simp)
  | ldaa o | ldab o => exact next_toHw6800 (by simp [loadAcc])
  | ldd o | ldx o => exact next_toHw6800 (by simp [load16])
  | staa o | stab o => exact next_toHw6800 (by simp [storeAcc, dst8])
  | std o | stx o => exact next_toHw6800 (by simp [store16, dst16])

/-- Settles O60: the laws of `toHw6800` for the instructions and for an interrupt entry. -/
theorem stackConventionsAgree : Obligations.StackConventionsAgree := fun _ card =>
  ⟨toHw6800_exec card, toHw6800_takeInterrupt card⟩

end Sys2Proof.Machine
end

section
/-!
Memory (10_state.md R35, R39; 20_memory.md R55, R58): every instruction stores one byte at each of the addresses of `storedAt`,
in their order and as far as these are `ram`, and nothing else writes memory but the register frame of an interrupt entry.
The canonical form, and what each instruction leaves alone, follow from this alone.
-/

namespace Sys2Proof.Machine

/-! ## Memory with some bytes stored to -/

/-- `m'` is `m` after one byte has been stored at each of the addresses in turn, where the address is `ram` (R58). -/
def StoresAt (regions : List Region) : List Word → Memory → Memory → Prop
  | [], m, m' => m' = m
  | addr :: rest, m, m' =>
    ∃ v, StoresAt regions rest (if kindIn regions addr = .ram then m.write addr v else m) m'

@[simp] theorem storesAt_nil (regions : List Region) (m m' : Memory) : StoresAt regions [] m m' ↔ m' = m := Iff.rfl

/-- A byte that is not stored to reads as before. -/
theorem StoresAt.read_other {regions : List Region} {addrs : List Word} {m m' : Memory}
    (h : StoresAt regions addrs m m') {adr : Word} (hadr : adr ∉ addrs) : m'.read adr = m.read adr := by
  induction addrs generalizing m with
  | nil => rw [(storesAt_nil ..).1 h]
  | cons addr rest ih =>
    obtain ⟨v, h⟩ := h
    obtain ⟨hne, hrest⟩ := not_or.1 (mt List.mem_cons.2 hadr)
    rw [ih h hrest]
    split
    · exact Memory.read_write_other m addr adr v hne
    · rfl

/-- Stores keep the canonical form. -/
theorem StoresAt.wf {regions : List Region} {addrs : List Word} {m m' : Memory} (h : StoresAt regions addrs m m')
    (hm : m.wf) : m'.wf := by
  induction addrs generalizing m with
  | nil => rwa [(storesAt_nil ..).1 h]
  | cons addr rest ih =>
    obtain ⟨v, h⟩ := h
    refine ih h ?_
    split
    · exact Memory.write_wf m addr v hm
    · exact hm

/-! ## The operations that store -/

/-- A byte write stores at its address (R12). -/
theorem memWrite8_storesAt (addr : Word) (v : Byte) (s : State) :
    StoresAt s.cfg.memmap [addr] s.mem (memWrite8 addr v s).mem :=
  ⟨v, memWrite8_mem addr v s⟩

/-- A word write stores at its address and the next (R12). -/
theorem memWrite16_storesAt (addr v : Word) (s : State) :
    StoresAt s.cfg.memmap [addr, addr + 1] s.mem (memWrite16 addr v s).mem := by
  refine ⟨hiByte v, loByte v, ?_⟩
  rw [storesAt_nil, memWrite16, memWrite8_mem, memWrite8_kindAt, memWrite8_mem]
  rfl

/-- The addresses that pushes store to are that of the first, and those from the state after it (R13). -/
theorem pushed_succ (n : Nat) (v : Byte) (s : State) :
    pushed (n + 1) s = pushAddr s.cfg.stack s.sp :: pushed n (push8 v s) := by
  simp only [pushed, List.range_succ_eq_map, List.map_cons, List.map_map, push8_cfg, push8_sp, BitVec.sub_zero]
  congr 1
  exact List.map_congr_left fun k _ => congrArg (pushAddr s.cfg.stack) (sub_ofNat_succ s.sp k).symm

/-- Pushing a list of bytes stores at as many addresses of the stack (R13). -/
theorem pushAll_storesAt (vs : List Byte) (s : State) :
    StoresAt s.cfg.memmap (pushed vs.length s) s.mem (pushAll vs s).mem := by
  induction vs generalizing s with
  | nil => rfl
  | cons v vs ih =>
    rw [List.length_cons, pushed_succ _ v, pushAll]
    refine ⟨v, ?_⟩
    have rest := ih (push8 v s)
    rw [push8_cfg, push8_mem, memWrite8_mem] at rest
    exact rest

theorem push16_storesAt (v : Word) (s : State) : StoresAt s.cfg.memmap (pushed 2 s) s.mem (push16 v s).mem :=
  pushAll_storesAt [loByte v, hiByte v] s

/-- Stacking the registers stores at the seven addresses of the frame (R14). -/
theorem stackRegs_storesAt (s : State) : StoresAt s.cfg.memmap (pushed 7 s) s.mem (stackRegs s).mem := by
  rw [stackRegs_eq]
  exact pushAll_storesAt [loByte s.pc, hiByte s.pc, loByte s.x, hiByte s.x, s.a, s.b, pRead s] s

/-- A read, a computation and a write store at the operand's address, if the computation leaves memory and the
parameters alone (R56). -/
theorem modifyMem_storesAt (o : MemOp) {f : Byte → State → Byte × State} (s : State)
    (hm : ∀ m t, (f m t).2.mem = t.mem) (hc : ∀ m t, (f m t).2.cfg = t.cfg) :
    StoresAt s.cfg.memmap [ea o.mode s] s.mem (modifyMem o f s).mem := by
  have written := memWrite8_storesAt (ea o.mode s) (f (memRead8 (ea o.mode s) s).1 (memRead8 (ea o.mode s) s).2).1
    (f (memRead8 (ea o.mode s) s).1 (memRead8 (ea o.mode s) s).2).2
  rwa [hm, hc, memRead8_mem, memRead8_cfg] at written

/-! ## The instructions -/

/-- Every instruction stores at the addresses of `storedAt` (R39, R55): the cases follow the shared operation that an
instruction is written with. -/
theorem exec_storesAt {i : Instr} {s t : State} (h : exec i s = .next t) :
    StoresAt s.cfg.memmap (storedAt i s) s.mem t.mem := by
  cases i with
  | nop | tap | tpa | clv | sev | clc | sec | cli | sei | tab | tba | tsx | txs | ins | des | inx | dex | abx | mul | aba
  | sba | cba | daa | lsrd | asld =>
    cases h; rfl
  | nega | coma | lsra | asra | asla | tsta | clra | negb | comb | lsrb | asrb | aslb | tstb | clrb =>
    cases h; rfl
  | inca | deca | incb | decb => cases h; simp [storedAt, modifyAcc, inc8, dec8]
  | rola | rora | rolb | rorb => cases h; simp [storedAt, modifyAcc, rol8, ror8]
  | neg o | com o | lsr o | asr o | asl o =>
    cases h; exact modifyMem_storesAt o s (fun _ _ => rfl) fun _ _ => rfl
  | inc o | dec o => cases h; exact modifyMem_storesAt o s (by simp [inc8, dec8]) (by simp [inc8, dec8])
  | rol o | ror o => cases h; exact modifyMem_storesAt o s (by simp [rol8, ror8]) (by simp [rol8, ror8])
  | clr o => cases h; exact memWrite8_storesAt (ea o.mode s) 0 s
  | tst o | jmp o => cases h; simp [storedAt]
  | bra rel | brn rel | bhi rel | bls rel | bcc rel | bhs rel | bcs rel | blo rel | bne rel | beq rel | bvc rel | bvs rel
  | bpl rel | bmi rel | bge rel | blt rel | bgt rel | ble rel =>
    cases h; exact branchIf_mem _ rel s
  | bsr rel | jsr o => cases h; exact push16_storesAt s.pc s
  | rts => cases h; simp [storedAt, returnFromSubroutine]
  | psha => cases h; exact pushAll_storesAt [s.a] s
  | pshb => cases h; exact pushAll_storesAt [s.b] s
  | pshx => cases h; exact push16_storesAt s.x s
  | pula | pulb | pulx => cases h; simp [storedAt, pullAcc, pullX]
  | swi => cases h; simpa [takeTrap, storedAt] using stackRegs_storesAt s
  | wai => cases h; exact stackRegs_storesAt s
  | rti => cases h; exact unstackRegs_mem s
  | adda o | addb o | adca o | adcb o | suba o | subb o | sbca o | sbcb o => cases h; exact src8_mem o s
  | cmpa o | cmpb o | anda o | andb o | eora o | eorb o | oraa o | orab o | bita o | bitb o | ldaa o | ldab o =>
    cases h; exact src8_mem o s
  | addd o | subd o | cpx o | ldd o | lds o | ldx o => cases h; exact src16_mem o s
  | staa o => cases h; exact memWrite8_storesAt (ea o s) s.a s
  | stab o => cases h; exact memWrite8_storesAt (ea o s) s.b s
  | std o => cases h; exact memWrite16_storesAt (ea o s) s.d s
  | sts o => cases h; exact memWrite16_storesAt (ea o s) s.sp s
  | stx o => cases h; exact memWrite16_storesAt (ea o s) s.x s

/-- Settles O27: the two laws of `StoresAt` for the addresses of `storedAt`. -/
theorem memoryChangesWhereStored : Obligations.MemoryChangesWhereStored := by
  intro i s t h
  have stores := exec_storesAt h
  refine ⟨fun _ => stores.read_other, fun none_stored => ?_⟩
  rwa [none_stored] at stores

/-! ## The canonical form along a step (R35) -/

/-- A fetch leaves memory alone (R83). -/
theorem fetchInstr_mem {s t : State} {i : Instr} (h : fetchInstr s = .instr i t) : t.mem = s.mem := by
  obtain ⟨_, _, _, _, _, rfl⟩ := fetchInstr_state s t i h
  rfl

/-- Settles O21, by the four cases of a step: only an interrupt entry and an instruction write memory, and both do so by
stores. -/
theorem stepKeepsMemoryCanonical : Obligations.StepKeepsMemoryCanonical := by
  intro s t inv h
  have moved : (envMove s).mem.wf := by rwa [envMove_mem]
  rcases step_cases s t h with ⟨_, rfl⟩ | ⟨vec, _, rfl⟩ | ⟨_, rfl⟩ | ⟨_, i, u, fetched, executed⟩
  · rwa [State.Inv, resetSeq_mem]
  · exact takeInterrupt_wf vec _ moved
  · exact moved
  · exact (exec_storesAt executed).wf (by rwa [fetchInstr_mem fetched])

end Sys2Proof.Machine
end

section
/-!
The flags each instruction writes (10_state.md R31, R32): each flag computation keeps to a row of the card's HINZVC column,
and each instruction to the row of its computation.
-/

namespace Sys2Proof.Machine

/-! ## Flag computations -/

theorem rowNone_holds (p : CCR) : rowNone.holds p p := ⟨rfl, rfl, rfl, rfl, rfl, rfl⟩

theorem add8_row (x y : Byte) (cin : Bool) (p : CCR) : rowAdd.holds p (add8 x y cin p).2 :=
  ⟨trivial, rfl, trivial, trivial, trivial, trivial⟩

theorem sub8_row (x y : Byte) (bin : Bool) (p : CCR) : rowArith.holds p (sub8 x y bin p).2 :=
  ⟨rfl, rfl, trivial, trivial, trivial, trivial⟩

theorem add16_row (x y : Word) (p : CCR) : rowArith.holds p (add16 x y p).2 :=
  ⟨rfl, rfl, trivial, trivial, trivial, trivial⟩

theorem sub16_row (x y : Word) (p : CCR) : rowArith.holds p (sub16 x y p).2 :=
  ⟨rfl, rfl, trivial, trivial, trivial, trivial⟩

/-- CPX has one row under both values of CPX_MODEL (R151). -/
theorem cpxFlags_row (model : CpxModel) (x m : Word) (p : CCR) : rowArith.holds p (cpxFlags model x m p) := by
  cases model with
  | card16 => exact sub16_row x m p
  | m6800 => exact ⟨rfl, rfl, trivial, trivial, trivial, trivial⟩

theorem daa8_row (x : Byte) (v : Bool) (p : CCR) : rowArith.holds p (daa8 x v p).2 :=
  ⟨rfl, rfl, trivial, trivial, trivial, trivial⟩

theorem mul8_row (x y : Byte) (p : CCR) : rowMultiply.holds p (mul8 x y p).2 :=
  ⟨rfl, rfl, rfl, rfl, rfl, trivial⟩

theorem asl8_row (m : Byte) (p : CCR) : rowArith.holds p (asl8 m p).2 :=
  ⟨rfl, rfl, trivial, trivial, trivial, trivial⟩

theorem asr8_row (m : Byte) (p : CCR) : rowArith.holds p (asr8 m p).2 :=
  ⟨rfl, rfl, trivial, trivial, trivial, trivial⟩

theorem asl16_row (d : Word) (p : CCR) : rowArith.holds p (asl16 d p).2 :=
  ⟨rfl, rfl, trivial, trivial, trivial, trivial⟩

theorem lsr8_row (m : Byte) (p : CCR) : rowShiftRight.holds p (lsr8 m p).2 :=
  ⟨rfl, rfl, rfl, trivial, trivial, trivial⟩

theorem lsr16_row (d : Word) (p : CCR) : rowShiftRight.holds p (lsr16 d p).2 :=
  ⟨rfl, rfl, rfl, trivial, trivial, trivial⟩

theorem neg8_row (m : Byte) (p : CCR) : rowArith.holds p (neg8 m p).2 := sub8_row 0 m false p

theorem com8_row (m : Byte) (p : CCR) : rowComplement.holds p (com8 m p).2 :=
  ⟨rfl, rfl, trivial, trivial, rfl, rfl⟩

theorem moved8_row (v : Byte) (p : CCR) : rowMove.holds p (p.moved8 v) :=
  ⟨rfl, rfl, trivial, trivial, rfl, rfl⟩

theorem moved16_row (v : Word) (p : CCR) : rowMove.holds p (p.moved16 v) :=
  ⟨rfl, rfl, trivial, trivial, rfl, rfl⟩

theorem cleared_row (p : CCR) : rowClear.holds p p.cleared := ⟨rfl, rfl, rfl, rfl, rfl, rfl⟩

theorem tested_row (m : Byte) (p : CCR) : rowTest.holds p (p.tested m) := ⟨rfl, rfl, trivial, trivial, rfl, rfl⟩

/-- Setting I alone is the row of SEI, and of SWI. -/
theorem rowSei_holds (p : CCR) : rowSei.holds p { p with i := true } := ⟨rfl, rfl, rfl, rfl, rfl, rfl⟩

/-! ## Computations on an operand of the state -/

/-- The flags that a computation leaves keep to the row, whatever the byte and the state it is given. -/
def KeepsRow (row : FlagRow) (f : Byte → State → Byte × State) : Prop := ∀ m s, row.holds s.p (f m s).2.p

theorem KeepsRow.withFlags {row : FlagRow} {f : Byte → CCR → Byte × CCR} (h : ∀ m p, row.holds p (f m p).2) :
    KeepsRow row (withFlags f) :=
  fun m s => h m s.p

theorem KeepsRow.modifyMem {row : FlagRow} {f : Byte → State → Byte × State} (h : KeepsRow row f) (o : MemOp)
    (s : State) : row.holds s.p (modifyMem o f s).p := by
  simpa [Machine.modifyMem] using h (memRead8 (ea o.mode s) s).1 (memRead8 (ea o.mode s) s).2

theorem KeepsRow.modifyAcc {row : FlagRow} {f : Byte → State → Byte × State} (h : KeepsRow row f) (r : Acc)
    (s : State) : row.holds s.p (modifyAcc r f s).p := by
  simpa [Machine.modifyAcc] using h (s.acc r) s

theorem inc8_row : KeepsRow rowCount inc8 := fun _ _ => ⟨rfl, rfl, trivial, trivial, trivial, rfl⟩

theorem dec8_row : KeepsRow rowCount dec8 := fun _ _ => ⟨rfl, rfl, trivial, trivial, trivial, rfl⟩

theorem rol8_row : KeepsRow rowRotate rol8 := fun _ _ => ⟨rfl, rfl, trivial, trivial, trivial, trivial⟩

theorem ror8_row : KeepsRow rowRotate ror8 := fun _ _ => ⟨rfl, rfl, trivial, trivial, trivial, trivial⟩

/-! ## The instructions -/

/-- An instruction that leaves P alone keeps to the row without a flag. -/
theorem rowNone_of_eq {p q : CCR} (h : q = p) : rowNone.holds p q := h ▸ rowNone_holds p

/-- Settles O25: each instruction keeps to the row of its flag computation. -/
theorem flagsFollowTheCard : Obligations.FlagsFollowTheCard := by
  intro i s t h
  cases i with
  | nop | tpa | tsx | txs | ins | des | abx => cases h; exact rowNone_holds s.p
  | clv | sev | clc | sec | cli => cases h; exact ⟨rfl, rfl, rfl, rfl, rfl, rfl⟩
  | sei => cases h; exact rowSei_holds s.p
  | tap | rti => cases h; exact ⟨trivial, trivial, trivial, trivial, trivial, trivial⟩
  | inx | dex => cases h; exact ⟨rfl, rfl, rfl, trivial, rfl, rfl⟩
  | swi =>
    cases h
    have masked : (takeTrap vecSwi s).p = { s.p with i := true } := by simp [takeTrap]
    exact masked ▸ rowSei_holds s.p
  | wai =>
    cases h
    have kept : ((stackRegs s).setWaiting true).p = s.p := stackRegs_p s
    rw [kept]
    exact ⟨rfl, trivial, rfl, rfl, rfl, rfl⟩
  | tab => cases h; exact moved8_row s.a s.p
  | tba => cases h; exact moved8_row s.b s.p
  | mul => cases h; exact mul8_row s.a s.b s.p
  | daa => cases h; exact daa8_row s.a _ s.p
  | aba => cases h; exact add8_row s.a s.b false s.p
  | sba | cba => cases h; exact sub8_row s.a s.b false s.p
  | asld => cases h; exact asl16_row s.d s.p
  | lsrd => cases h; exact lsr16_row s.d s.p
  | nega | negb => cases h; exact (KeepsRow.withFlags neg8_row).modifyAcc _ s
  | coma | comb => cases h; exact (KeepsRow.withFlags com8_row).modifyAcc _ s
  | lsra | lsrb => cases h; exact (KeepsRow.withFlags lsr8_row).modifyAcc _ s
  | asra | asrb => cases h; exact (KeepsRow.withFlags asr8_row).modifyAcc _ s
  | asla | aslb => cases h; exact (KeepsRow.withFlags asl8_row).modifyAcc _ s
  | inca | incb => cases h; exact inc8_row.modifyAcc _ s
  | deca | decb => cases h; exact dec8_row.modifyAcc _ s
  | rola | rolb => cases h; exact rol8_row.modifyAcc _ s
  | rora | rorb => cases h; exact ror8_row.modifyAcc _ s
  | neg o => cases h; exact (KeepsRow.withFlags neg8_row).modifyMem o s
  | com o => cases h; exact (KeepsRow.withFlags com8_row).modifyMem o s
  | lsr o => cases h; exact (KeepsRow.withFlags lsr8_row).modifyMem o s
  | asr o => cases h; exact (KeepsRow.withFlags asr8_row).modifyMem o s
  | asl o => cases h; exact (KeepsRow.withFlags asl8_row).modifyMem o s
  | inc o => cases h; exact inc8_row.modifyMem o s
  | dec o => cases h; exact dec8_row.modifyMem o s
  | rol o => cases h; exact rol8_row.modifyMem o s
  | ror o => cases h; exact ror8_row.modifyMem o s
  | clra | clrb | clr o => cases h; exact cleared_row s.p
  | tsta => cases h; exact tested_row s.a s.p
  | tstb => cases h; exact tested_row s.b s.p
  | tst o => cases h; exact tested_row _ s.p
  | jmp o => cases h; exact rowNone_holds s.p
  | bra rel | brn rel | bhi rel | bls rel | bcc rel | bhs rel | bcs rel | blo rel | bne rel | beq rel | bvc rel | bvs rel
  | bpl rel | bmi rel | bge rel | blt rel | bgt rel | ble rel =>
    cases h; exact rowNone_of_eq (branchIf_p _ rel s)
  | bsr rel | jsr o => cases h; exact rowNone_of_eq (push16_p s.pc s)
  | rts => cases h; exact rowNone_of_eq (pull16_p s)
  | psha | pshb => cases h; exact rowNone_of_eq (push8_p _ s)
  | pshx => cases h; exact rowNone_of_eq (push16_p s.x s)
  | pula | pulb => cases h; exact rowNone_of_eq (pull8_p s)
  | pulx => cases h; exact rowNone_of_eq (pull16_p s)
  | adda o | addb o | adca o | adcb o => cases h; exact add8_row _ _ _ s.p
  | suba o | subb o | sbca o | sbcb o | cmpa o | cmpb o => cases h; exact sub8_row _ _ _ s.p
  | addd o => cases h; exact add16_row s.d (src16 o s).1 s.p
  | subd o => cases h; exact sub16_row s.d (src16 o s).1 s.p
  | cpx o => cases h; exact cpxFlags_row s.cfg.cpx s.x (src16 o s).1 s.p
  | anda o | andb o | eora o | eorb o | oraa o | orab o | bita o | bitb o | ldaa o | ldab o | staa o | stab o =>
    cases h; exact moved8_row _ s.p
  | ldd o | lds o | ldx o | std o | sts o | stx o => cases h; exact moved16_row _ s.p

end Sys2Proof.Machine
end

section
/-!
What an instruction does not write (10_state.md R26, R36, R39; 45_ccr_system.md R250): the registers not listed for it, the
pending NMI, `waiting` but for WAI, and by `exec_inputs` the environment's inputs and the parameters.
-/

namespace Sys2Proof.Machine

/-- Between `s` and `t` the registers not listed for the instruction, the pending NMI and, but for WAI, `waiting` have not
changed. -/
structure Unwritten (i : Instr) (s t : State) : Prop where
  a : (writes i).a = false → t.a = s.a
  b : (writes i).b = false → t.b = s.b
  x : (writes i).x = false → t.x = s.x
  sp : (writes i).sp = false → t.sp = s.sp
  pc : (writes i).pc = false → t.pc = s.pc
  nmiPending : t.nmiPending = s.nmiPending
  waiting : i ≠ .wai → t.waiting = s.waiting

theorem unwritten_iff {i : Instr} {s t : State} :
    Unwritten i s t ↔ ((writes i).a = false → t.a = s.a) ∧ ((writes i).b = false → t.b = s.b) ∧
      ((writes i).x = false → t.x = s.x) ∧ ((writes i).sp = false → t.sp = s.sp) ∧
      ((writes i).pc = false → t.pc = s.pc) ∧ t.nmiPending = s.nmiPending ∧ (i ≠ .wai → t.waiting = s.waiting) :=
  ⟨fun ⟨a, b, x, sp, pc, n, w⟩ => ⟨a, b, x, sp, pc, n, w⟩, fun ⟨a, b, x, sp, pc, n, w⟩ => ⟨a, b, x, sp, pc, n, w⟩⟩

/-- The cases follow the shared operation that an instruction is written with; the laws of its parts say what it leaves. -/
theorem exec_unwritten {i : Instr} {s t : State} (h : exec i s = .next t) : Unwritten i s t := by
  rw [unwritten_iff]
  cases i with
  | nop | tap | tpa | clv | sev | clc | sec | cli | sei | tab | tba | tsx | txs | ins | des | inx | dex | abx | mul | aba
  | sba | cba | daa | lsrd | asld =>
    cases h; simp [writes, countX, decimalAdjust, shiftD]
  | nega | coma | lsra | asra | asla | tsta | clra | negb | comb | lsrb | asrb | aslb | tstb | clrb =>
    cases h; simp [writes, modifyAcc, withFlags]
  | inca | deca | incb | decb => cases h; simp [writes, modifyAcc, inc8, dec8]
  | rola | rora | rolb | rorb => cases h; simp [writes, modifyAcc, rol8, ror8]
  | neg o | com o | lsr o | asr o | asl o => cases h; simp [writes, modifyMem, withFlags]
  | inc o | dec o => cases h; simp [writes, modifyMem, inc8, dec8]
  | rol o | ror o => cases h; simp [writes, modifyMem, rol8, ror8]
  | tst o | clr o | jmp o => cases h; simp [writes]
  | bra rel | brn rel | bhi rel | bls rel | bcc rel | bhs rel | bcs rel | blo rel | bne rel | beq rel | bvc rel | bvs rel
  | bpl rel | bmi rel | bge rel | blt rel | bgt rel | ble rel =>
    cases h; simp [writes]
  | bsr rel | jsr o => cases h; simp [writes, callSubroutine]
  | rts => cases h; simp [writes, returnFromSubroutine]
  | psha | pshb | pshx => cases h; simp [writes]
  | pula | pulb | pulx => cases h; simp [writes, pullAcc, pullX]
  | swi => cases h; simp [writes, takeTrap]
  | wai | rti => cases h; simp [writes]
  | adda o | addb o | adca o | adcb o | suba o | subb o | sbca o | sbcb o => cases h; simp [writes, aluAcc]
  | cmpa o | cmpb o => cases h; simp [writes, compareAcc]
  | anda o | andb o | eora o | eorb o | oraa o | orab o => cases h; simp [writes, logicAcc]
  | bita o | bitb o => cases h; simp [writes, bitTest]
  | addd o | subd o => cases h; simp [writes, aluD]
  | cpx o => cases h; simp [writes]
  | ldaa o | ldab o => cases h; simp [writes, loadAcc]
  | ldd o | lds o | ldx o => cases h; simp [writes, load16]
  | staa o | stab o => cases h; simp [writes, storeAcc]
  | std o | sts o | stx o => cases h; simp [writes, store16]

/-- Settles O26, by `exec_unwritten`. -/
theorem registersChangeAsListed : Obligations.RegistersChangeAsListed := by
  intro i s t h
  obtain ⟨a, b, x, sp, pc, _, _⟩ := exec_unwritten h
  exact ⟨a, b, x, sp, pc⟩

/-- Settles O28, by `exec_inputs` and `exec_unwritten`. -/
theorem instructionsLeaveTheEnvironment : Obligations.InstructionsLeaveTheEnvironment := by
  intro i s t h
  obtain ⟨cfg, irq, reset, accept, moves⟩ := inputs_eq_iff.1 (exec_inputs h)
  have kept := exec_unwritten h
  exact ⟨irq, reset, accept, moves, kept.nmiPending, cfg, kept.waiting⟩

end Sys2Proof.Machine
end

section
/-!
The hardware interrupt line (10_state.md R30; 60_exceptions.md R310, R311). Only the choice at the boundary reads the line, and
not where I is set: every operation commutes with putting the line at another level. Each law moves `withIrq` to the outside.
-/

namespace Sys2Proof.Machine

/-! ## What the line leaves alone -/

section
variable (f : Bool) (s : State)

@[simp] theorem withIrq_a : (s.withIrq f).a = s.a := rfl
@[simp] theorem withIrq_b : (s.withIrq f).b = s.b := rfl
@[simp] theorem withIrq_x : (s.withIrq f).x = s.x := rfl
@[simp] theorem withIrq_sp : (s.withIrq f).sp = s.sp := rfl
@[simp] theorem withIrq_pc : (s.withIrq f).pc = s.pc := rfl
@[simp] theorem withIrq_p : (s.withIrq f).p = s.p := rfl
@[simp] theorem withIrq_mem : (s.withIrq f).mem = s.mem := rfl
@[simp] theorem withIrq_waiting : (s.withIrq f).waiting = s.waiting := rfl
@[simp] theorem withIrq_cfg : (s.withIrq f).cfg = s.cfg := rfl
@[simp] theorem withIrq_kindAt (addr : Word) : (s.withIrq f).kindAt addr = s.kindAt addr := rfl
@[simp] theorem withIrq_acc (r : Acc) : (s.withIrq f).acc r = s.acc r := by cases r <;> rfl
@[simp] theorem withIrq_d : (s.withIrq f).d = s.d := rfl
@[simp] theorem withIrq_pRead : pRead (s.withIrq f) = pRead s := rfl
@[simp] theorem withIrq_ea (m : Mode) : ea m (s.withIrq f) = ea m s := by cases m <;> rfl
@[simp] theorem withIrq_relTarget (rel : Byte) : relTarget rel (s.withIrq f) = relTarget rel s := rfl

/-! ## Updates of other fields -/

@[simp] theorem withIrq_setA (v : Byte) : (s.withIrq f).setA v = (s.setA v).withIrq f := rfl
@[simp] theorem withIrq_setB (v : Byte) : (s.withIrq f).setB v = (s.setB v).withIrq f := rfl
@[simp] theorem withIrq_setX (v : Word) : (s.withIrq f).setX v = (s.setX v).withIrq f := rfl
@[simp] theorem withIrq_setSP (v : Word) : (s.withIrq f).setSP v = (s.setSP v).withIrq f := rfl
@[simp] theorem withIrq_setPC (v : Word) : (s.withIrq f).setPC v = (s.setPC v).withIrq f := rfl
@[simp] theorem withIrq_setP (v : CCR) : (s.withIrq f).setP v = (s.setP v).withIrq f := rfl
@[simp] theorem withIrq_setI (g : Bool) : (s.withIrq f).setI g = (s.setI g).withIrq f := rfl
@[simp] theorem withIrq_setMem (v : Memory) : (s.withIrq f).setMem v = (s.setMem v).withIrq f := rfl
@[simp] theorem withIrq_setWaiting (g : Bool) : (s.withIrq f).setWaiting g = (s.setWaiting g).withIrq f := rfl
@[simp] theorem withIrq_setNmiPending (g : Bool) :
    (s.withIrq f).setNmiPending g = (s.setNmiPending g).withIrq f := rfl
@[simp] theorem withIrq_record (e : IoEvent) : (s.withIrq f).record e = (s.record e).withIrq f := rfl
@[simp] theorem withIrq_setD (v : Word) : (s.withIrq f).setD v = (s.setD v).withIrq f := rfl
@[simp] theorem withIrq_setAcc (r : Acc) (v : Byte) : (s.withIrq f).setAcc r v = (s.setAcc r v).withIrq f := by
  cases r <;> rfl

/-! ## Draws, memory and operands -/

@[simp] theorem withIrq_drawBit : drawBit (s.withIrq f) = (drawBit s).map id (State.withIrq f) := rfl
@[simp] theorem withIrq_drawByte : drawByte (s.withIrq f) = (drawByte s).map id (State.withIrq f) := rfl

@[simp] theorem withIrq_unknownV (v : Bool) :
    unknownV v (s.withIrq f) = (unknownV v s).map id (State.withIrq f) := by
  simp only [unknownV, withIrq_cfg]
  split <;> simp

@[simp] theorem withIrq_memRead8 (addr : Word) :
    memRead8 addr (s.withIrq f) = (memRead8 addr s).map id (State.withIrq f) := by
  simp only [memRead8, withIrq_kindAt]
  split <;> simp

@[simp] theorem withIrq_memRead16 (addr : Word) :
    memRead16 addr (s.withIrq f) = (memRead16 addr s).map id (State.withIrq f) := by
  simp [memRead16]

@[simp] theorem withIrq_memWrite8 (addr : Word) (v : Byte) :
    memWrite8 addr v (s.withIrq f) = (memWrite8 addr v s).withIrq f := by
  simp only [memWrite8, withIrq_kindAt]
  split <;> simp

@[simp] theorem withIrq_memWrite16 (addr v : Word) :
    memWrite16 addr v (s.withIrq f) = (memWrite16 addr v s).withIrq f := by
  simp [memWrite16]

@[simp] theorem withIrq_src8 (o : Src8) : src8 o (s.withIrq f) = (src8 o s).map id (State.withIrq f) := by
  cases o <;> simp [src8]

@[simp] theorem withIrq_src16 (o : Src16) : src16 o (s.withIrq f) = (src16 o s).map id (State.withIrq f) := by
  cases o <;> simp [src16]

/-! ## The stack -/

@[simp] theorem withIrq_push8 (v : Byte) : push8 v (s.withIrq f) = (push8 v s).withIrq f := by
  simp only [push8, withIrq_cfg]
  split <;> simp

@[simp] theorem withIrq_pull8 : pull8 (s.withIrq f) = (pull8 s).map id (State.withIrq f) := by
  simp only [pull8, withIrq_cfg]
  split <;> simp

@[simp] theorem withIrq_push16 (v : Word) : push16 v (s.withIrq f) = (push16 v s).withIrq f := by
  simp [push16]

@[simp] theorem withIrq_pull16 : pull16 (s.withIrq f) = (pull16 s).map id (State.withIrq f) := by
  simp [pull16]

@[simp] theorem withIrq_stackRegs : stackRegs (s.withIrq f) = (stackRegs s).withIrq f := by
  simp [stackRegs]

@[simp] theorem withIrq_unstackRegs : unstackRegs (s.withIrq f) = (unstackRegs s).withIrq f := by
  simp [unstackRegs]

/-! ## Handlers, interrupts and reset -/

@[simp] theorem withIrq_enterHandler (vec : Word) :
    enterHandler vec (s.withIrq f) = (enterHandler vec s).withIrq f := by
  simp [enterHandler]

theorem withIrq_takeInterrupt (vec : Word) : takeInterrupt vec (s.withIrq f) = (takeInterrupt vec s).withIrq f := by
  simp only [takeInterrupt, withIrq_waiting, withIrq_stackRegs]
  split <;> split <;> simp

theorem withIrq_drawRegisters : drawRegisters (s.withIrq f) = (drawRegisters s).withIrq f := rfl

theorem withIrq_resetSeq : resetSeq (s.withIrq f) = (resetSeq s).withIrq f := by
  simp only [resetSeq, withIrq_cfg]
  split <;> simp [withIrq_drawRegisters]

/-! ## Fetching -/

@[simp] theorem withIrq_fetch8 : fetch8 (s.withIrq f) = (fetch8 s).map id (State.withIrq f) := by
  simp [fetch8]

@[simp] theorem withIrq_fetch16 : fetch16 (s.withIrq f) = (fetch16 s).map id (State.withIrq f) := by
  simp [fetch16]

end

/-- What a fetch gives, with the line at another level. -/
def Fetched.withIrq (f : Bool) : Fetched → Fetched
  | .instr i t => .instr i (t.withIrq f)
  | .unassigned op addr => .unassigned op addr

theorem withIrq_fetchInstr (f : Bool) (s : State) : fetchInstr (s.withIrq f) = (fetchInstr s).withIrq f := by
  simp only [fetchInstr, withIrq_fetch8, withIrq_cfg, withIrq_pc, Prod.map_fst, Prod.map_snd, id_eq]
  split <;> simp [Fetched.withIrq]

/-! ## Operations on an operand -/

/-- A computation that neither reads nor writes the line. -/
def IgnoresIrq (g : Byte → State → Byte × State) : Prop :=
  ∀ f m s, g m (s.withIrq f) = (g m s).map id (State.withIrq f)

theorem withFlags_ignoresIrq (g : Byte → CCR → Byte × CCR) : IgnoresIrq (withFlags g) := fun _ _ _ => rfl

theorem inc8_ignoresIrq : IgnoresIrq inc8 := fun f m s => by simp [inc8]

theorem dec8_ignoresIrq : IgnoresIrq dec8 := fun f m s => by simp [dec8]

theorem rol8_ignoresIrq : IgnoresIrq rol8 := fun f m s => by simp [rol8]

theorem ror8_ignoresIrq : IgnoresIrq ror8 := fun f m s => by simp [ror8]

theorem IgnoresIrq.modifyAcc {g : Byte → State → Byte × State} (hg : IgnoresIrq g) (r : Acc) (f : Bool) (s : State) :
    modifyAcc r g (s.withIrq f) = (modifyAcc r g s).withIrq f := by
  simp [Machine.modifyAcc, hg f]

theorem IgnoresIrq.modifyMem {g : Byte → State → Byte × State} (hg : IgnoresIrq g) (o : MemOp) (f : Bool) (s : State) :
    modifyMem o g (s.withIrq f) = (modifyMem o g s).withIrq f := by
  simp [Machine.modifyMem, hg f]

/-! ## The instructions -/

theorem withIrq_branchIf (f c : Bool) (rel : Byte) (s : State) :
    branchIf c rel (s.withIrq f) = (branchIf c rel s).withIrq f := by
  cases c <;> rfl

/-- What an instruction answers has the line at another level as the state in it does. -/
theorem next_withIrq {f : Bool} {t u : State} (h : u = t.withIrq f) : (.next u : Result) = withIrq f (.next t) :=
  congrArg Host.Outcome.next h

/-- No instruction reads the line: the cases follow the shared operation that an instruction is written with. -/
theorem withIrq_exec (f : Bool) (i : Instr) (s : State) : exec i (s.withIrq f) = withIrq f (exec i s) := by
  cases i with
  | nop | tap | tpa | clv | sev | clc | sec | cli | sei | tab | tba | tsx | txs | ins | des | inx | dex | abx | mul | aba
  | sba | cba | daa | lsrd | asld =>
    rfl
  | nega | coma | lsra | asra | asla | tsta | clra | negb | comb | lsrb | asrb | aslb | tstb | clrb => rfl
  | inca | incb => exact next_withIrq (inc8_ignoresIrq.modifyAcc _ f s)
  | deca | decb => exact next_withIrq (dec8_ignoresIrq.modifyAcc _ f s)
  | rola | rolb => exact next_withIrq (rol8_ignoresIrq.modifyAcc _ f s)
  | rora | rorb => exact next_withIrq (ror8_ignoresIrq.modifyAcc _ f s)
  | neg o | com o | lsr o | asr o | asl o => exact next_withIrq ((withFlags_ignoresIrq _).modifyMem o f s)
  | inc o => exact next_withIrq (inc8_ignoresIrq.modifyMem o f s)
  | dec o => exact next_withIrq (dec8_ignoresIrq.modifyMem o f s)
  | rol o => exact next_withIrq (rol8_ignoresIrq.modifyMem o f s)
  | ror o => exact next_withIrq (ror8_ignoresIrq.modifyMem o f s)
  | tst o | clr o | jmp o => exact next_withIrq (by simp)
  | bra rel | brn rel | bhi rel | bls rel | bcc rel | bhs rel | bcs rel | blo rel | bne rel | beq rel | bvc rel | bvs rel
  | bpl rel | bmi rel | bge rel | blt rel | bgt rel | ble rel =>
    exact next_withIrq (withIrq_branchIf f _ rel s)
  | bsr rel | jsr o => exact next_withIrq (by simp [callSubroutine])
  | rts => exact next_withIrq (by simp [returnFromSubroutine])
  | psha | pshb => exact next_withIrq (withIrq_push8 f s _)
  | pshx => exact next_withIrq (withIrq_push16 f s s.x)
  | pula | pulb | pulx => exact next_withIrq (by simp [pullAcc, pullX])
  | swi => exact next_withIrq (by simp [takeTrap])
  | wai => exact next_withIrq (by simp)
  | rti => exact next_withIrq (withIrq_unstackRegs f s)
  | adda o | addb o | adca o | adcb o | suba o | subb o | sbca o | sbcb o => exact next_withIrq (by simp [aluAcc])
  | cmpa o | cmpb o => exact next_withIrq (by simp [compareAcc])
  | anda o | andb o | eora o | eorb o | oraa o | orab o => exact next_withIrq (by simp [logicAcc])
  | bita o | bitb o => exact next_withIrq (by simp [bitTest])
  | addd o | subd o => exact next_withIrq (by simp [aluD])
  | cpx o => exact next_withIrq (by simp)
  | ldaa o | ldab o => exact next_withIrq (by simp [loadAcc])
  | ldd o | lds o | ldx o => exact next_withIrq (by simp [load16])
  | staa o | stab o => exact next_withIrq (by simp [storeAcc, dst8])
  | std o | sts o | stx o => exact next_withIrq (by simp [store16, dst16])

/-! ## The boundary (R310, R311) -/

/-- With I set the hardware interrupt is not eligible, whatever the level of the line (R30, R310). -/
theorem eligible_masked {s : State} (masked : s.p.i = true) :
    eligible s = if s.nmiPending then some vecNmi else none := by
  simp [eligible, masked]

/-- With I set the choice at the boundary does not read the line. -/
theorem boundary_withIrq {s : State} (f : Bool) (masked : s.p.i = true) : boundary (s.withIrq f) = boundary s := by
  have same : eligible (s.withIrq f) = eligible s := by
    rw [eligible_masked masked, eligible_masked (s := s.withIrq f) masked]
    rfl
  unfold boundary
  rw [same]
  rfl

/-- With I set what the machine does in a step commutes with the level of the line. -/
theorem act_withIrq {s : State} (f : Bool) (masked : s.p.i = true) : act (s.withIrq f) = withIrq f (act s) := by
  simp only [act, boundary_withIrq f masked]
  cases boundary s with
  | reset => exact next_withIrq (withIrq_resetSeq f s)
  | interrupt vec => exact next_withIrq (withIrq_takeInterrupt f s vec)
  | wait => rfl
  | run =>
    simp only [withIrq_fetchInstr]
    cases fetchInstr s with
    | instr i t => exact withIrq_exec f i t
    | unassigned op addr => rfl

/-- Without a move left the environment leaves the state as it is (R320). -/
theorem envMove_of_no_moves {s : State} (h : s.moves = []) : envMove s = s := by
  simp only [envMove, h]

/-- Settles O20: no move overwrites the line, and then `act` does not read it. -/
theorem maskedIrqLineIsInvisible : Obligations.MaskedIrqLineIsInvisible := by
  intro s f still masked
  simp only [step, moveThenAct, envMove_of_no_moves still, envMove_of_no_moves (s := s.withIrq f) still]
  exact act_withIrq f masked

end Sys2Proof.Machine
end

section
/-!
Counting by one (10_state.md R33; 41_arithmetic.md R156 to R159): INC and DEC add 1 and 255 modulo 256, in memory and in an
accumulator alike.
-/

namespace Sys2Proof.Machine

/-- The flags `q` and the count of draws `d` after a count from `m` to `r` in the state `s`: N and Z are the result's, C is as
before, and V is left open, `m = top` being its value under `m6800` (R33). -/
def CountFlags (top m r : Byte) (s : State) (q : CCR) (d : Nat) : Prop :=
  IsCounted8 r s.p q ∧ q.c = s.p.c ∧ OpenV s (m == top) q.v d

/-- The operation adds `k` modulo 256, and writes the flags of a count and the count of draws alone. -/
def CountsBy (k : Nat) (top : Byte) (f : Byte → State → Byte × State) : Prop :=
  ∀ m s, ∃ r q d, f m s = (r, { s with p := q, draws := d }) ∧ r.toNat = (m.toNat + k) % 256 ∧ CountFlags top m r s q d

/-- INC adds 1 (R156). -/
theorem inc8_countsBy : CountsBy 1 0x7F inc8 := fun m s => by
  obtain ⟨q, d, result, flags⟩ := inc8_spec m s
  exact ⟨m + 1, q, d, result, BitVec.toNat_add m 1, flags⟩

/-- DEC adds 255, which is -1 modulo 256 (R158). -/
theorem dec8_countsBy : CountsBy 255 0x80 dec8 := fun m s => by
  obtain ⟨q, d, result, flags⟩ := dec8_spec m s
  exact ⟨m - 1, q, d, result, by bv_omega, flags⟩

/-- A count in memory (R156, R158). -/
theorem CountsBy.modifyMem {k : Nat} {top : Byte} {f : Byte → State → Byte × State} (h : CountsBy k top f) (o : MemOp)
    (s : State) {m : Byte × State} (hm : m = memRead8 (ea o.mode s) s) :
    ∃ r q d, (.next (modifyMem o f s) : Result) =
        .next (memWrite8 (ea o.mode s) r { m.2 with p := q, draws := d }) ∧
      r.toNat = (m.1.toNat + k) % 256 ∧ IsCounted8 r s.p q ∧ q.c = s.p.c ∧ OpenV m.2 (m.1 == top) q.v d := by
  obtain ⟨r, q, d, result, value, counted, carry, openV⟩ := h m.1 m.2
  have flags : m.2.p = s.p := by rw [hm, memRead8_p]
  rw [flags] at counted carry
  exact ⟨r, q, d, by simp only [Machine.modifyMem, ← hm, result], value, counted, carry, openV⟩

/-- A count in A (R157, R159). -/
theorem CountsBy.modifyA {k : Nat} {top : Byte} {f : Byte → State → Byte × State} (h : CountsBy k top f) (s : State) :
    ∃ r q d, (.next (modifyAcc .A f s) : Result) = .next { s with a := r, p := q, draws := d } ∧
      r.toNat = (s.a.toNat + k) % 256 ∧ CountFlags top s.a r s q d := by
  obtain ⟨r, q, d, result, count⟩ := h s.a s
  exact ⟨r, q, d, by rw [modifyAcc, State.acc_A, result]; rfl, count⟩

/-- A count in B (R157, R159). -/
theorem CountsBy.modifyB {k : Nat} {top : Byte} {f : Byte → State → Byte × State} (h : CountsBy k top f) (s : State) :
    ∃ r q d, (.next (modifyAcc .B f s) : Result) = .next { s with b := r, p := q, draws := d } ∧
      r.toNat = (s.b.toNat + k) % 256 ∧ CountFlags top s.b r s q d := by
  obtain ⟨r, q, d, result, count⟩ := h s.b s
  exact ⟨r, q, d, by rw [modifyAcc, State.acc_B, result]; rfl, count⟩

/-- Settles O46: INC and DEC count by 1 and by 255, wherever their operand is. -/
theorem incrementsAndDecrementsCount : Obligations.IncrementsAndDecrementsCount := fun o s _ hm =>
  ⟨inc8_countsBy.modifyMem o s hm, dec8_countsBy.modifyMem o s hm, inc8_countsBy.modifyA s, inc8_countsBy.modifyB s,
    dec8_countsBy.modifyA s, dec8_countsBy.modifyB s⟩

end Sys2Proof.Machine
end

section
/-!
P as a byte (10_state.md R28, R29; 45_ccr_system.md R246, R247).
-/

namespace Sys2Proof.Machine

/-- The byte that P reads as, as a number (R29). -/
theorem toByte_toNat (unused : BitVec 2) (p : CCR) :
    (p.toByte unused).toNat = 64 * unused.toNat + 32 * p.h.toNat + 16 * p.i.toNat + 8 * p.n.toNat + 4 * p.z.toNat +
      2 * p.v.toNat + p.c.toNat := by
  obtain ⟨h, i, n, z, v, c⟩ := p
  revert unused h i n z v c
  decide

/-- TAP after TPA writes the flags that TPA read (R246, R247). -/
theorem execAll_tpa_tap (s : State) :
    execAll [.tpa, .tap] s = .next ((s.setA (pRead s)).setP (CCR.ofByte (pRead s))) := rfl

/-- Settles O59: P as a byte, and back. -/
theorem tapAndTpaMoveTheFlags : Obligations.TapAndTpaMoveTheFlags := fun s =>
  ⟨rfl, ⟨pRead s, rfl, toByte_toNat s.cfg.ccrUnused s.p⟩, ⟨_, execAll_tpa_tap s, ofByte_toByte s.cfg.ccrUnused s.p⟩⟩

end Sys2Proof.Machine
end

section
/-!
The state after reset (10_state.md R38; 70_reset_and_hazards.md R351).
-/

namespace Sys2Proof.Machine

/-- Settles O19, by the definition of the state after reset. -/
theorem resetStateIsAsTheSpecSays : Obligations.ResetStateIsAsTheSpecSays := ⟨rfl, rfl, rfl, rfl⟩

/-- Settles O22: memory is empty. -/
theorem resetMemoryIsCanonical : Obligations.ResetMemoryIsCanonical :=
  ⟨List.Pairwise.nil, fun _ h => absurd h List.not_mem_nil⟩

end Sys2Proof.Machine
end

section
/-!
Bytes that are not `ram` (20_memory.md R58; 60_exceptions.md R323): what a step writes to memory it writes by stores, and a
store changes a byte only where the address is `ram`.
-/

namespace Sys2Proof.Machine

/-- Stores leave a byte that is not `ram` as it was, also where its address is stored to (R58). -/
theorem StoresAt.read_not_ram {regions : List Region} {addrs : List Word} {m m' : Memory}
    (h : StoresAt regions addrs m m') {adr : Word} (hadr : kindIn regions adr ≠ .ram) : m'.read adr = m.read adr := by
  induction addrs generalizing m with
  | nil => rw [(storesAt_nil ..).1 h]
  | cons addr rest ih =>
    obtain ⟨v, h⟩ := h
    rw [ih h]
    split
    · rename_i ram
      exact Memory.read_write_other m addr adr v (ne_of_apply_ne (kindIn regions) (ram ▸ hadr))
    · rfl

/-- An interrupt entry stores the register frame, or after WAI nothing (R304, R322). -/
theorem takeInterrupt_storesAt (vec : Word) (s : State) :
    StoresAt s.cfg.memmap (if s.waiting then [] else pushed 7 s) s.mem (takeInterrupt vec s).mem := by
  have framed : (takeInterrupt vec s).mem = (if s.waiting then s else stackRegs s).mem := by
    unfold takeInterrupt
    dsimp only
    rw [enterHandler_mem]
    split <;> rfl
  rw [framed]
  split
  · rfl
  · exact stackRegs_storesAt s

/-- A fetch leaves the kind of every address as it was (R7, R83). -/
theorem fetchInstr_kindAt {s t : State} {i : Instr} (h : fetchInstr s = .instr i t) (addr : Word) :
    t.kindAt addr = s.kindAt addr := by
  obtain ⟨_, _, _, _, _, rfl⟩ := fetchInstr_state s t i h
  rfl

/-- Settles O23, by the four cases of a step: an interrupt entry and an instruction write memory by stores, the others not
at all. -/
theorem stepChangesRamOnly : Obligations.StepChangesRamOnly := by
  intro s t h addr not_ram
  rw [← envMove_kindAt] at not_ram
  rw [← envMove_mem s]
  rcases step_cases s t h with ⟨_, rfl⟩ | ⟨vec, _, rfl⟩ | ⟨_, rfl⟩ | ⟨_, i, u, fetched, executed⟩
  · rw [resetSeq_mem]
  · exact (takeInterrupt_storesAt vec _).read_not_ram not_ram
  · rfl
  · rw [← fetchInstr_kindAt fetched] at not_ram
    rw [← fetchInstr_mem fetched]
    exact (exec_storesAt executed).read_not_ram not_ram

end Sys2Proof.Machine
end

section
/-!
The events of `io` accesses (20_memory.md R58). A byte read and a byte write record at most one event, and only at an `io`
address; everything else that a step does to the list of events is done by such reads and writes.
-/

namespace Sys2Proof.Machine

/-! ## Adding events -/

/-- The address that an event is an access to. -/
def IoEvent.addr : IoEvent → Word
  | .read addr => addr
  | .write addr _ => addr

/-- Between `s` and `t` the parameters are kept and events are only added, each an access to an `io` address (R58). It reads
nothing else of the two states, so that updates of other fields do not matter to it. -/
def AddsEvents (s t : State) : Prop :=
  t.cfg = s.cfg ∧ ∃ new, t.ioLog = new ++ s.ioLog ∧ ∀ e ∈ new, s.kindAt e.addr = .io

/-- Where the list of events is kept, no event is added. -/
theorem AddsEvents.of_eq {s t : State} (hc : t.cfg = s.cfg) (hl : t.ioLog = s.ioLog) : AddsEvents s t :=
  ⟨hc, [], hl, fun _ h => absurd h List.not_mem_nil⟩

theorem AddsEvents.refl (s : State) : AddsEvents s s := .of_eq rfl rfl

/-- The event of an `io` access is added. -/
theorem AddsEvents.of_record {s : State} {e : IoEvent} (h : s.kindAt e.addr = .io) : AddsEvents s (s.record e) :=
  ⟨rfl, [e], rfl, fun _ he => List.mem_singleton.1 he ▸ h⟩

theorem AddsEvents.trans {s t u : State} (h : AddsEvents s t) (h' : AddsEvents t u) : AddsEvents s u := by
  obtain ⟨hc, new, hl, io⟩ := h
  obtain ⟨hc', new', hl', io'⟩ := h'
  have kinds (addr : Word) : t.kindAt addr = s.kindAt addr := by rw [State.kindAt, State.kindAt, hc]
  refine ⟨hc'.trans hc, new' ++ new, by rw [hl', hl, List.append_assoc], fun e he => ?_⟩
  rcases List.mem_append.1 he with he | he
  · rw [← kinds]
    exact io' e he
  · exact io e he

/-! ## Memory and operands -/

theorem memRead8_addsEvents (addr : Word) (s : State) : AddsEvents s (memRead8 addr s).2 := by
  unfold memRead8
  split
  · exact .refl s
  · exact .refl s
  · exact .of_record (e := .read addr) ‹_›
  · exact .of_eq rfl rfl

theorem memRead16_addsEvents (addr : Word) (s : State) : AddsEvents s (memRead16 addr s).2 :=
  (memRead8_addsEvents addr s).trans (memRead8_addsEvents (addr + 1) _)

theorem memWrite8_addsEvents (addr : Word) (v : Byte) (s : State) : AddsEvents s (memWrite8 addr v s) := by
  unfold memWrite8
  split
  · exact .of_eq rfl rfl
  · exact .refl s
  · exact .of_record (e := .write addr v) ‹_›
  · exact .refl s

theorem memWrite16_addsEvents (addr v : Word) (s : State) : AddsEvents s (memWrite16 addr v s) :=
  (memWrite8_addsEvents addr (hiByte v) s).trans (memWrite8_addsEvents (addr + 1) (loByte v) _)

theorem src8_addsEvents (o : Src8) (s : State) : AddsEvents s (src8 o s).2 := by
  cases o with
  | imm n => exact .refl s
  | mem m => exact memRead8_addsEvents (ea m s) s

theorem src16_addsEvents (o : Src16) (s : State) : AddsEvents s (src16 o s).2 := by
  cases o with
  | imm nn => exact .refl s
  | mem m => exact memRead16_addsEvents (ea m s) s

/-! ## Operations on an operand -/

theorem inc8_addsEvents (m : Byte) (s : State) : AddsEvents s (inc8 m s).2 :=
  .of_eq (unknownV_cfg _ s) (unknownV_ioLog _ s)

theorem dec8_addsEvents (m : Byte) (s : State) : AddsEvents s (dec8 m s).2 :=
  .of_eq (unknownV_cfg _ s) (unknownV_ioLog _ s)

theorem rol8_addsEvents (m : Byte) (s : State) : AddsEvents s (rol8 m s).2 :=
  .of_eq (unknownV_cfg _ s) (unknownV_ioLog _ s)

theorem ror8_addsEvents (m : Byte) (s : State) : AddsEvents s (ror8 m s).2 :=
  .of_eq (unknownV_cfg _ s) (unknownV_ioLog _ s)

/-- Besides those of its computation, a read, a computation and a write add the events of the read and the write (R56). -/
theorem modifyMem_addsEvents (o : MemOp) {f : Byte → State → Byte × State} (hf : ∀ m t, AddsEvents t (f m t).2)
    (s : State) : AddsEvents s (modifyMem o f s) :=
  ((memRead8_addsEvents (ea o.mode s) s).trans (hf _ _)).trans (memWrite8_addsEvents _ _ _)

/-! ## The stack and the register frame -/

theorem push8_addsEvents (v : Byte) (s : State) : AddsEvents s (push8 v s) := by
  unfold push8
  split
  · exact memWrite8_addsEvents _ v (s.setSP (s.sp - 1))
  · exact memWrite8_addsEvents _ v s

theorem push16_addsEvents (v : Word) (s : State) : AddsEvents s (push16 v s) :=
  (push8_addsEvents (loByte v) s).trans (push8_addsEvents (hiByte v) _)

theorem pull8_addsEvents (s : State) : AddsEvents s (pull8 s).2 := by
  unfold pull8
  split
  · exact memRead8_addsEvents _ s
  · exact memRead8_addsEvents _ (s.setSP (s.sp + 1))

theorem pull16_addsEvents (s : State) : AddsEvents s (pull16 s).2 :=
  (pull8_addsEvents s).trans (pull8_addsEvents _)

theorem pushAll_addsEvents (vs : List Byte) (s : State) : AddsEvents s (pushAll vs s) := by
  induction vs generalizing s with
  | nil => exact .refl s
  | cons v vs ih => exact (push8_addsEvents v s).trans (ih _)

theorem stackRegs_addsEvents (s : State) : AddsEvents s (stackRegs s) :=
  stackRegs_eq s ▸ pushAll_addsEvents _ s

theorem unstackRegs_addsEvents (s : State) : AddsEvents s (unstackRegs s) := by
  unfold unstackRegs
  extract_lets p b a x pc
  have flags : AddsEvents s p.2 := pull8_addsEvents s
  have accB : AddsEvents p.2 b.2 := pull8_addsEvents (p.2.setP (CCR.ofByte p.1))
  have accA : AddsEvents b.2 a.2 := pull8_addsEvents (b.2.setB b.1)
  have index : AddsEvents a.2 x.2 := pull16_addsEvents (a.2.setA a.1)
  have counter : AddsEvents x.2 pc.2 := pull16_addsEvents (x.2.setX x.1)
  exact (((flags.trans accB).trans accA).trans index).trans counter

/-! ## Handlers, interrupts and reset -/

theorem enterHandler_addsEvents (vec : Word) (s : State) : AddsEvents s (enterHandler vec s) :=
  memRead16_addsEvents vec (s.setI true)

theorem takeInterrupt_addsEvents (vec : Word) (s : State) : AddsEvents s (takeInterrupt vec s) := by
  unfold takeInterrupt
  extract_lets s1
  have framed : AddsEvents s s1 := by
    unfold s1
    split
    · exact .of_eq rfl rfl
    · exact stackRegs_addsEvents s
  have taken : AddsEvents s1 (if vec = vecNmi then s1.setNmiPending false else s1) := by
    split
    · exact .of_eq rfl rfl
    · exact .refl s1
  exact (framed.trans taken).trans (enterHandler_addsEvents vec _)

theorem resetSeq_addsEvents (s : State) : AddsEvents s (resetSeq s) := by
  unfold resetSeq
  extract_lets s1 pc
  have registers : AddsEvents s s1 := by
    unfold s1
    split
    · exact .refl s
    · exact .of_eq (drawRegisters_cfg s) (drawRegisters_ioLog s)
  exact registers.trans (memRead16_addsEvents vecReset (((s1.setI true).setWaiting false).setNmiPending false))

/-! ## Fetching -/

theorem fetch8_addsEvents (s : State) : AddsEvents s (fetch8 s).2 := memRead8_addsEvents s.pc s

theorem fetch16_addsEvents (s : State) : AddsEvents s (fetch16 s).2 :=
  (fetch8_addsEvents s).trans (fetch8_addsEvents _)

theorem fetchInstr_addsEvents {s t : State} {i : Instr} (h : fetchInstr s = .instr i t) : AddsEvents s t := by
  unfold fetchInstr at h
  dsimp only at h
  split at h
  · cases h
  · cases h
    exact fetch8_addsEvents s
  · cases h
    exact (fetch8_addsEvents s).trans (fetch8_addsEvents _)
  · cases h
    exact (fetch8_addsEvents s).trans (fetch16_addsEvents _)

/-! ## The instructions -/

/-- Every instruction only adds events of `io` addresses: the cases follow the shared operation that an instruction is
written with. -/
theorem exec_addsEvents {i : Instr} {s t : State} (h : exec i s = .next t) : AddsEvents s t := by
  cases i with
  | nop | tap | tpa | clv | sev | clc | sec | cli | sei | tab | tba | tsx | txs | ins | des | inx | dex | abx | mul | aba
  | sba | cba | daa | lsrd | asld =>
    cases h; exact .of_eq rfl rfl
  | nega | coma | lsra | asra | asla | tsta | clra | negb | comb | lsrb | asrb | aslb | tstb | clrb =>
    cases h; exact .of_eq rfl rfl
  | inca => cases h; exact inc8_addsEvents s.a s
  | incb => cases h; exact inc8_addsEvents s.b s
  | deca => cases h; exact dec8_addsEvents s.a s
  | decb => cases h; exact dec8_addsEvents s.b s
  | rola => cases h; exact rol8_addsEvents s.a s
  | rolb => cases h; exact rol8_addsEvents s.b s
  | rora => cases h; exact ror8_addsEvents s.a s
  | rorb => cases h; exact ror8_addsEvents s.b s
  | neg o | com o | lsr o | asr o | asl o => cases h; exact modifyMem_addsEvents o (fun _ _ => .of_eq rfl rfl) s
  | inc o => cases h; exact modifyMem_addsEvents o inc8_addsEvents s
  | dec o => cases h; exact modifyMem_addsEvents o dec8_addsEvents s
  | rol o => cases h; exact modifyMem_addsEvents o rol8_addsEvents s
  | ror o => cases h; exact modifyMem_addsEvents o ror8_addsEvents s
  | clr o => cases h; exact memWrite8_addsEvents (ea o.mode s) 0 s
  | tst o => cases h; exact memRead8_addsEvents (ea o.mode s) s
  | jmp o => cases h; exact .of_eq rfl rfl
  | bra rel | brn rel | bhi rel | bls rel | bcc rel | bhs rel | bcs rel | blo rel | bne rel | beq rel | bvc rel | bvs rel
  | bpl rel | bmi rel | bge rel | blt rel | bgt rel | ble rel =>
    cases h; exact .of_eq (branchIf_cfg _ rel s) (branchIf_ioLog _ rel s)
  | bsr rel | jsr o => cases h; exact push16_addsEvents s.pc s
  | rts | pulx => cases h; exact pull16_addsEvents s
  | psha | pshb => cases h; exact push8_addsEvents _ s
  | pshx => cases h; exact push16_addsEvents s.x s
  | pula | pulb => cases h; exact pull8_addsEvents s
  | swi => cases h; exact (stackRegs_addsEvents s).trans (enterHandler_addsEvents vecSwi _)
  | wai => cases h; exact stackRegs_addsEvents s
  | rti => cases h; exact unstackRegs_addsEvents s
  | adda o | addb o | adca o | adcb o | suba o | subb o | sbca o | sbcb o => cases h; exact src8_addsEvents o s
  | cmpa o | cmpb o | anda o | andb o | eora o | eorb o | oraa o | orab o | bita o | bitb o | ldaa o | ldab o =>
    cases h; exact src8_addsEvents o s
  | addd o | subd o | cpx o | ldd o | lds o | ldx o => cases h; exact src16_addsEvents o s
  | staa o => cases h; exact memWrite8_addsEvents (ea o s) s.a s
  | stab o => cases h; exact memWrite8_addsEvents (ea o s) s.b s
  | std o => cases h; exact memWrite16_addsEvents (ea o s) s.d s
  | sts o => cases h; exact memWrite16_addsEvents (ea o s) s.sp s
  | stx o => cases h; exact memWrite16_addsEvents (ea o s) s.x s

/-! ## The step -/

/-- A step only adds events of `io` addresses, in each of its four cases (R58, R320). -/
theorem step_addsEvents {s t : State} (h : step s = .next t) : AddsEvents s t := by
  have moved : AddsEvents s (envMove s) := .of_eq (envMove_cfg s) (envMove_ioLog s)
  rcases step_cases s t h with ⟨_, rfl⟩ | ⟨vec, _, rfl⟩ | ⟨_, rfl⟩ | ⟨_, i, u, fetched, executed⟩
  · exact moved.trans (resetSeq_addsEvents _)
  · exact moved.trans (takeInterrupt_addsEvents vec _)
  · exact moved
  · exact (moved.trans (fetchInstr_addsEvents fetched)).trans (exec_addsEvents executed)

/-- Settles O24, by `step_addsEvents`: each event added needs an `io` address. -/
theorem eventsAreOnlyAdded : Obligations.EventsAreOnlyAdded := by
  intro s t h
  obtain ⟨_, new, grown, io⟩ := step_addsEvents h
  refine ⟨⟨new, grown⟩, fun no_io => ?_⟩
  have none_added : new = [] := List.eq_nil_iff_forall_not_mem.2 fun e he => no_io e.addr (io e he)
  rw [grown, none_added, List.nil_append]

end Sys2Proof.Machine
end

section
/-!
Bytes read and written by the kind of their address (20_memory.md R58).
-/

namespace Sys2Proof.Machine

/-- A write to a `ram` address stores the byte (R58). -/
theorem memWrite8_ram (addr : Word) (v : Byte) (s : State) (h : s.kindAt addr = .ram) :
    memWrite8 addr v s = s.setMem (s.mem.write addr v) := by
  simp [memWrite8, h]

/-- A write to a `rom` address changes nothing (R58). -/
theorem memWrite8_rom (addr : Word) (v : Byte) (s : State) (h : s.kindAt addr = .rom) : memWrite8 addr v s = s := by
  simp [memWrite8, h]

/-- A write to an `unmapped` address changes nothing (R58). -/
theorem memWrite8_unmapped (addr : Word) (v : Byte) (s : State) (h : s.kindAt addr = .unmapped) :
    memWrite8 addr v s = s := by
  simp [memWrite8, h]

/-- Memory answers at a `rom` address. -/
theorem answers_of_rom {s : State} {addr : Word} (h : s.kindAt addr = .rom) : s.answers addr = true := by
  simp [State.answers, h]

/-- Settles O31: the laws of a byte read and a byte write for each kind of address. -/
theorem memoryActsByKind : Obligations.MemoryActsByKind :=
  ⟨fun addr v s =>
    ⟨fun ram => ⟨memRead8_memory addr s (answers_of_ram ram), memWrite8_ram addr v s ram⟩,
      fun rom => ⟨memRead8_memory addr s (answers_of_rom rom), memWrite8_rom addr v s rom⟩,
      fun io => ⟨memRead8_io addr s io, memWrite8_io addr v s io⟩,
      fun unmapped => ⟨memRead8_unmapped addr s unmapped, memWrite8_unmapped addr v s unmapped⟩⟩,
    fun _ => rfl⟩

end Sys2Proof.Machine
end

section
/-!
Clear and test (20_memory.md R56; 41_arithmetic.md R164 to R167).
-/

namespace Sys2Proof.Machine

/-- The flags of a test are those of a move, with C cleared (R166). -/
theorem tested_eq (m : Byte) (p : CCR) : p.tested m = { p.moved8 m with c := false } := rfl

/-- CLR is one write, and the flags (R164). -/
theorem exec_clr (o : MemOp) (s : State) :
    exec (.clr o) s = .next { memWrite8 (ea o.mode s) 0 s with p := s.p.cleared } := rfl

/-- TST is one read, and the flags of the byte read (R166). -/
theorem exec_tst (o : MemOp) (s : State) :
    exec (.tst o) s = .next { (memRead8 (ea o.mode s) s).2 with p := s.p.tested (memRead8 (ea o.mode s) s).1 } := rfl

/-- Settles O47: CLR and TST by `exec_clr` and `exec_tst`, and the flags of a test by `tested_eq`. -/
theorem clearsAndTestsSetTheFlags : Obligations.ClearsAndTestsSetTheFlags := by
  rintro o s z rfl
  exact ⟨exec_clr o s, rfl, rfl,
    ⟨_, by rw [exec_tst, tested_eq], moved8_isMoved (memRead8 (ea o.mode s) s).1 s.p⟩,
    ⟨_, rfl, moved8_isMoved s.a s.p⟩, ⟨_, rfl, moved8_isMoved s.b s.p⟩⟩

end Sys2Proof.Machine
end

section
/-!
Encoding and decoding (30_encoding.md R80 to R97). An opcode byte decides a shape, which the operand bytes complete to an
instruction (`Shape.Reads`). Decoding is characterised by this relation, and every instruction has a row of the card that
agrees with it.
-/

namespace Sys2Proof

/-! ## Shapes -/

/-- The operand bytes complete the shape to the instruction: none, one byte, or the two halves of a word, the high one
first (R80, R81). -/
inductive Shape.Reads : Shape → List Byte → Instr → Prop
  | inh (i : Instr) : Reads (.inh i) [] i
  | byte (mk : Byte → Instr) (n : Byte) : Reads (.byte mk) [n] (mk n)
  | word (mk : Word → Instr) (w : Word) : Reads (.word mk) [hiByte w, loByte w] (mk w)

/-! ## Decoding -/

/-- What has a row of the part's opcode map is read as this row says (R80, R83). -/
theorem decode_of_reads {hasExt : Bool} {op : Byte} {sh : Shape} {operands : List Byte} {i : Instr}
    (row : partMap hasExt op = some sh) (reads : sh.Reads operands i) (rest : List Byte) :
    decode hasExt (op :: (operands ++ rest)) = .ok i rest := by
  cases reads with
  | inh => simp [decode, row]
  | byte => simp [decode, row]
  | word => simp [decode, row, Machine.join_hi_lo]

/-- An instruction is decoded exactly from the bytes of a row of the part's opcode map. -/
theorem decode_eq_ok_iff {hasExt : Bool} {bytes rest : List Byte} {i : Instr} :
    decode hasExt bytes = .ok i rest ↔
      ∃ op sh operands, partMap hasExt op = some sh ∧ sh.Reads operands i ∧ bytes = op :: (operands ++ rest) := by
  constructor
  · intro h
    cases bytes with
    | nil => cases h
    | cons op bs =>
      cases row : partMap hasExt op with
      | none => simp [decode, row] at h
      | some sh =>
        simp only [decode, row] at h
        cases sh with
        | inh j =>
          cases h
          exact ⟨op, _, [], row, .inh i, rfl⟩
        | byte mk =>
          rcases bs with _ | ⟨n, bs⟩ <;> cases h
          exact ⟨op, _, [n], row, .byte mk n, rfl⟩
        | word mk =>
          rcases bs with _ | ⟨hi, _ | ⟨lo, bs⟩⟩ <;> cases h
          refine ⟨op, _, _, row, .word mk (joinBytes hi lo), ?_⟩
          rw [Machine.hi_join, Machine.lo_join]
          rfl
  · rintro ⟨op, sh, operands, row, reads, rfl⟩
    exact decode_of_reads row reads rest

/-- A byte is rejected by name exactly when the part's opcode map has no row for it (R97). -/
theorem decode_eq_unassigned_iff {hasExt : Bool} {op : Byte} {rest : List Byte} :
    decode hasExt (op :: rest) = .unassigned op ↔ partMap hasExt op = none := by
  cases row : partMap hasExt op with
  | none => simp [decode, row]
  | some sh => cases sh with
    | inh i => simp [decode, row]
    | byte mk => cases rest <;> simp [decode, row]
    | word mk => rcases rest with _ | ⟨hi, _ | ⟨lo, rest⟩⟩ <;> simp [decode, row]

/-! ## The rows of the card -/

/-- What a row of the part's opcode map reads encodes to the row's bytes, is an instruction of the part, and is no second
name (R93, R96): `partMap_row` in terms of `Shape.Reads`. -/
theorem encode_of_reads {hasExt : Bool} {op : Byte} {sh : Shape} {operands : List Byte} {i : Instr}
    (row : partMap hasExt op = some sh) (reads : sh.Reads operands i) :
    encode i = op :: operands ∧ i.wellFormed hasExt = true ∧ i.canonical = i := by
  have facts := Machine.partMap_row hasExt op
  rw [row] at facts
  cases reads with
  | inh => obtain ⟨bytes, wf, canonical, _⟩ := facts; exact ⟨bytes, wf, canonical⟩
  | byte mk n => obtain ⟨bytes, wf, canonical, _⟩ := facts n; exact ⟨bytes, wf, canonical⟩
  | word mk w => obtain ⟨bytes, wf, canonical, _⟩ := facts w; exact ⟨bytes, wf, canonical⟩

/-- The instruction has a row of the card: its opcode byte has a shape in the opcode map, which its operand bytes complete to
it, or to the first name of a second one (R93, R96). Only an instruction marked `#` has the byte of a `#` row (R95). -/
def HasRow (i : Instr) : Prop :=
  ∃ op operands sh, encode i = op :: operands ∧ opcodeMap op = some sh ∧ sh.Reads operands i.canonical ∧
    (extOpcodes.contains op && !i.extOnly) = false

/-- Every instruction has one: the cases are the kinds of operand and the addressing modes of each (R84, R86). -/
theorem instr_hasRow (i : Instr) : HasRow i := by
  cases i with
  | nop | lsrd | asld | tap | tpa | inx | dex | clv | sev | clc | sec | cli | sei | sba | cba | tab | tba | daa | aba
  | tsx | ins | pula | pulb | des | txs | psha | pshb | pulx | rts | abx | rti | pshx | mul | wai | swi
  | nega | coma | lsra | rora | asra | asla | rola | deca | inca | tsta | clra
  | negb | comb | lsrb | rorb | asrb | aslb | rolb | decb | incb | tstb | clrb =>
    exact ⟨_, _, _, rfl, rfl, .inh _, rfl⟩
  | bra rel | brn rel | bhi rel | bls rel | bcc rel | bhs rel | bcs rel | blo rel | bne rel | beq rel | bvc rel | bvs rel
  | bpl rel | bmi rel | bge rel | blt rel | bgt rel | ble rel | bsr rel =>
    exact ⟨_, _, _, rfl, rfl, .byte _ rel, rfl⟩
  | neg o | com o | lsr o | ror o | asr o | asl o | rol o | dec o | inc o | tst o | jmp o | clr o | jsr o =>
    cases o with
    | idx off => exact ⟨_, _, _, rfl, rfl, .byte _ off, rfl⟩
    | ext addr => exact ⟨_, _, _, rfl, rfl, .word _ addr, rfl⟩
  | staa o | stab o | std o | sts o | stx o =>
    cases o with
    | dir n => exact ⟨_, _, _, rfl, rfl, .byte _ n, rfl⟩
    | idx off => exact ⟨_, _, _, rfl, rfl, .byte _ off, rfl⟩
    | ext addr => exact ⟨_, _, _, rfl, rfl, .word _ addr, rfl⟩
  | suba o | cmpa o | sbca o | anda o | bita o | ldaa o | eora o | adca o | oraa o | adda o
  | subb o | cmpb o | sbcb o | andb o | bitb o | ldab o | eorb o | adcb o | orab o | addb o =>
    rcases o with n | (n | off | addr)
    · exact ⟨_, _, _, rfl, rfl, .byte _ n, rfl⟩
    · exact ⟨_, _, _, rfl, rfl, .byte _ n, rfl⟩
    · exact ⟨_, _, _, rfl, rfl, .byte _ off, rfl⟩
    · exact ⟨_, _, _, rfl, rfl, .word _ addr, rfl⟩
  | subd o | addd o | cpx o | ldd o | lds o | ldx o =>
    rcases o with nn | (n | off | addr)
    · exact ⟨_, _, _, rfl, rfl, .word _ nn, rfl⟩
    · exact ⟨_, _, _, rfl, rfl, .byte _ n, rfl⟩
    · exact ⟨_, _, _, rfl, rfl, .byte _ off, rfl⟩
    · exact ⟨_, _, _, rfl, rfl, .word _ addr, rfl⟩

/-- Where the part has the `#` rows, or the byte is of none, the part's map is the whole map (R2, R97). -/
theorem partMap_eq_opcodeMap {hasExt : Bool} {op : Byte} (h : hasExt = true ∨ extOpcodes.contains op = false) :
    partMap hasExt op = opcodeMap op := by
  unfold partMap
  rcases h with h | h <;> rw [h]
  · rfl
  · rw [Bool.and_false]
    rfl

/-- Settles O1: the instruction's row (`instr_hasRow`) is one of the part's map, and what has a row is read as it says. -/
theorem decodeReadsWhatEncodeWrites : Obligations.DecodeReadsWhatEncodeWrites := by
  intro hasExt i rest wf
  obtain ⟨op, operands, sh, bytes, row, reads, marked⟩ := instr_hasRow i
  have on_part : hasExt = true ∨ extOpcodes.contains op = false := by
    simp only [Instr.wellFormed] at wf
    grind
  rw [bytes]
  exact decode_of_reads (by rw [partMap_eq_opcodeMap on_part, row]) reads rest

/-- Settles O2: bytes that decode are those of a row, and `encode_of_reads`. -/
theorem decodedBytesAreTheEncoding : Obligations.DecodedBytesAreTheEncoding := by
  intro hasExt bytes i rest decoded
  obtain ⟨op, sh, operands, row, reads, rfl⟩ := decode_eq_ok_iff.1 decoded
  obtain ⟨encoded, wf, canonical⟩ := encode_of_reads row reads
  exact ⟨by rw [encoded, List.cons_append], wf, canonical⟩

/-! ## Unassigned opcodes -/

/-- The bytes without a row are those of R97. -/
theorem partMap_eq_none_iff {hasExt : Bool} {op : Byte} :
    partMap hasExt op = none ↔ op ∈ Machine.unassignedBytes hasExt := by
  have listed : ∀ (e : Bool) (b : Byte), (partMap e b).isNone = decide (b ∈ Machine.unassignedBytes e) := by decide
  rw [← Option.isNone_iff_eq_none, listed, decide_eq_true_iff]

/-- Settles O3: the decoder rejects by name what the part's map has no row for, the bytes of R97. -/
theorem rejectedOpcodesAreTheListedOnes : Obligations.RejectedOpcodesAreTheListedOnes := fun _ _ _ =>
  decode_eq_unassigned_iff.trans partMap_eq_none_iff

/-- Settles O4, by evaluating the decoder. -/
theorem wordsFromTheCardDecode : Obligations.WordsFromTheCardDecode :=
  ⟨rfl, rfl, rfl, rfl, rfl, rfl, rfl, rfl, rfl, rfl⟩

/-- Settles O5: the arms of either name have the same right-hand sides, in `encode` and in `exec`. -/
theorem bhsAndBloAreBccAndBcs : Obligations.BhsAndBloAreBccAndBcs := fun _ _ => ⟨rfl, rfl, rfl, rfl⟩

end Sys2Proof
end

section
/-!
The step that runs an instruction (30_encoding.md R83, R97; 60_exceptions.md R300, R316, R320): where memory answers, the
fetch reads what the bytes at PC decode to; every instruction answers a next state, so that only an unassigned opcode stops a
step.
-/

namespace Sys2Proof.Machine

/-! ## The fetch -/

/-- Without a row for the byte at PC the fetch names the byte and its address (R97). -/
theorem fetchInstr_of_no_row {s : State} (no_row : partMap s.cfg.hasExt (fetch8 s).1 = none) :
    fetchInstr s = .unassigned (fetch8 s).1 s.pc := by
  simp only [fetchInstr, no_row]

/-- Where memory answers at PC and at the next address, fetching two bytes gives the word there and changes PC alone (R12). -/
theorem fetch16_memory (s : State) (h : s.answers s.pc = true) (h' : s.answers (s.pc + 1) = true) :
    fetch16 s = (joinBytes (s.mem.read s.pc) (s.mem.read (s.pc + 1)), s.setPC (s.pc + 1 + 1)) := by
  rw [fetch16, fetch8_memory s h]
  dsimp only
  rw [fetch8_memory (s.setPC (s.pc + 1)) h']
  rfl

/-- Where memory answers at the bytes of the instruction that those at PC decode to, the fetch gives this instruction and
moves PC past its bytes (R83). -/
theorem fetchInstr_of_decode {u : State} {i : Instr} {rest : List Byte}
    (answer : ∀ k, k < i.length → u.answers (u.pc + BitVec.ofNat 16 k) = true)
    (decoded : decode u.cfg.hasExt [u.mem.read u.pc, u.mem.read (u.pc + 1), u.mem.read (u.pc + 2)] = .ok i rest) :
    fetchInstr u = .instr i (u.setPC (u.pc + BitVec.ofNat 16 i.length)) := by
  obtain ⟨op, sh, operands, row, reads, bytes⟩ := decode_eq_ok_iff.1 decoded
  obtain ⟨encoded, _, _⟩ := encode_of_reads row reads
  have len : i.length = operands.length + 1 := by rw [Instr.length, encoded, List.length_cons]
  obtain ⟨rfl, behind⟩ := List.cons.inj bytes
  rw [len] at answer ⊢
  have opcode : fetch8 u = (u.mem.read u.pc, u.setPC (u.pc + 1)) :=
    fetch8_memory u (by simpa using answer 0 (Nat.succ_pos _))
  have two : u.pc + 2 = u.pc + 1 + 1 := (BitVec.add_assoc u.pc 1 1).symm
  have three : u.pc + 2 + 1 = u.pc + 3 := BitVec.add_assoc u.pc 2 1
  cases reads with
  | inh =>
    simp only [fetchInstr, opcode, row]
    rfl
  | byte mk n =>
    obtain ⟨rfl, _⟩ := List.cons.inj behind
    have operand := fetch8_memory (u.setPC (u.pc + 1)) (answer 1 (by simp))
    simp only [fetchInstr, opcode, row, operand]
    exact congrArg (fun pc => Fetched.instr (mk _) (u.setPC pc)) two.symm
  | word mk w =>
    obtain ⟨high, low⟩ := List.cons.inj behind
    obtain ⟨low, _⟩ := List.cons.inj low
    have operand := fetch16_memory (u.setPC (u.pc + 1)) (answer 1 (by simp)) (two ▸ answer 2 (by simp))
    simp only [State.setPC_pc, State.setPC_mem, ← two, high, low, join_hi_lo] at operand
    simp only [fetchInstr, opcode, row, operand]
    exact congrArg (fun pc => Fetched.instr (mk w) (u.setPC pc)) three

/-! ## The step -/

/-- Where the processor runs, a step executes the instruction fetched (R83, R320). -/
theorem step_of_fetched {s t : State} {i : Instr} (runs : boundary (envMove s) = .run)
    (fetched : fetchInstr (envMove s) = .instr i t) : step s = exec i t := by
  simp only [step, moveThenAct, act, runs, fetched]

/-- Where the processor runs, a step that fetches an unassigned opcode is refused (R97, R320). -/
theorem step_of_unassigned {s : State} {op : Byte} {addr : Word} (runs : boundary (envMove s) = .run)
    (fetched : fetchInstr (envMove s) = .unassigned op addr) : step s = .refused (.unassignedOpcode op addr) := by
  simp only [step, moveThenAct, act, runs, fetched]

/-- Settles O6: the fetch gives the instruction decoded (`fetchInstr_of_decode`), and the step executes it. -/
theorem stepRunsTheDecodedInstruction : Obligations.StepRunsTheDecodedInstruction := by
  rintro s u i rest rfl runs answer decoded
  exact step_of_fetched runs (fetchInstr_of_decode answer decoded)

/-- Settles O7: the bytes of R97 are those without a row (`partMap_eq_none_iff`), which the fetch names. -/
theorem unassignedOpcodeHasNoSuccessor : Obligations.UnassignedOpcodeHasNoSuccessor := by
  rintro s u rfl runs listed
  exact step_of_unassigned runs (fetchInstr_of_no_row (partMap_eq_none_iff.2 listed))

/-! ## Completion -/

/-- Every instruction answers a next state: no arm of `exec` has another outcome (R300, R316). -/
theorem exec_completes (i : Instr) (s : State) : ∃ t, exec i s = .next t := by
  cases i <;> exact ⟨_, rfl⟩

/-- Settles O8: the four cases of the boundary, of which only a fetch can stop the step, and only at a byte without a row. -/
theorem onlyUnassignedOpcodesStopAStep : Obligations.OnlyUnassignedOpcodesStopAStep := by
  refine ⟨exec_completes, fun s => ?_⟩
  cases hb : boundary (envMove s) with
  | reset => exact .inl ⟨resetSeq (envMove s), by simp only [step, moveThenAct, act, hb]⟩
  | interrupt vec => exact .inl ⟨_, step_of_interrupt hb⟩
  | wait => exact .inl ⟨envMove s, by simp only [step, moveThenAct, act, hb]⟩
  | run =>
    cases hf : fetchInstr (envMove s) with
    | instr i u =>
      obtain ⟨t, executed⟩ := exec_completes i u
      exact .inl ⟨t, (step_of_fetched hb hf).trans executed⟩
    | unassigned op addr =>
      obtain ⟨_, rfl, no_row⟩ := fetchInstr_unassigned _ op addr hf
      rw [envMove_cfg] at no_row
      refine .inr ⟨op, partMap_eq_none_iff.1 no_row, rfl, ?_⟩
      rw [step_of_unassigned hb hf, envMove_pc]

end Sys2Proof.Machine
end

section
/-!
Effective addresses and branch targets as numbers (30_encoding.md R88 to R91).
-/

namespace Sys2Proof.Machine

/-- Extending a byte with zeros keeps its number (00_scope.md R9). -/
theorem zext16_toNat (v : Byte) : (zext16 v).toNat = v.toNat :=
  BitVec.toNat_setWidth_of_le (by decide)

/-- The address of DIR is the operand byte (R89). -/
theorem ea_dir_toNat (n : Byte) (s : State) : (ea (.dir n) s).toNat = n.toNat := zext16_toNat n

/-- The address of IDX is X plus the unsigned offset, modulo 65536 (R90). -/
theorem ea_idx_toNat (off : Byte) (s : State) : (ea (.idx off) s).toNat = (s.x.toNat + off.toNat) % 65536 := by
  rw [ea, BitVec.toNat_add, zext16_toNat]

/-- The target of a branch is PC plus the signed offset, modulo 65536 (R91). -/
theorem relTarget_toNat (rel : Byte) (s : State) :
    ((relTarget rel s).toNat : Int) = (s.pc.toNat + rel.toInt) % 65536 := by
  rw [relTarget, add_sext16, BitVec.toNat_ofInt]
  exact Int.toNat_of_nonneg (Int.emod_nonneg _ (by decide))

/-- Settles O29, mode by mode; the address of EXT is the operand itself (R88). -/
theorem effectiveAddressesWrap : Obligations.EffectiveAddressesWrap := fun s n _ =>
  ⟨ea_dir_toNat n s, ea_idx_toNat n s, rfl, relTarget_toNat n s⟩

end Sys2Proof.Machine
end

section
/-!
Loads, stores, transfers and the stack (40_load_store_stack.md): each instruction is a shared operation of
Machine/LoadStoreStack.lean, whose equations stand here once; the flags of a move are exact by `moved8_isMoved` and
`moved16_isMoved`.
-/

namespace Sys2Proof.Machine

/-! ## Loads and stores -/

/-- LDD puts the high byte of the operand into A and the low byte into B (R22, R111). -/
theorem exec_ldd (o : Src16) (s : State) :
    exec (.ldd o) s = .next { (src16 o s).2 with
      a := hiByte (src16 o s).1, b := loByte (src16 o s).1, p := s.p.moved16 (src16 o s).1 } := rfl

/-- Settles O34: the loads of one width share the flags of a move of the operand; the two bytes that LDD loads are the
operand by `hiByte_append_loByte`. -/
theorem loadsCopyTheOperand : Obligations.LoadsCopyTheOperand :=
  ⟨fun o s => ⟨s.p.moved8 (src8 o s).1, moved8_isMoved _ _, rfl, rfl⟩,
    fun o s => ⟨s.p.moved16 (src16 o s).1, moved16_isMoved _ _,
      ⟨_, _, hiByte_append_loByte _, exec_ldd o s⟩, rfl, rfl⟩⟩

/-- A store of an accumulator writes it at the effective address, and the flags of its move (R92, R114). -/
theorem storeAcc_eq (r : Acc) (o : Mode) (s : State) :
    storeAcc r o s = { memWrite8 (ea o s) (s.acc r) s with p := s.p.moved8 (s.acc r) } := rfl

/-- A store of a word writes it at the effective address, and the flags of its move (R92, R115 to R117). -/
theorem store16_eq (v : Word) (o : Mode) (s : State) :
    store16 v o s = { memWrite16 (ea o s) v s with p := s.p.moved16 v } := rfl

/-- Settles O35: `storeAcc_eq` for A and B, `store16_eq` for D, S and X. -/
theorem storesWriteTheRegister : Obligations.StoresWriteTheRegister := fun o s =>
  ⟨⟨_, congrArg Host.Outcome.next (storeAcc_eq .A o s), moved8_isMoved s.a s.p⟩,
    ⟨_, congrArg Host.Outcome.next (storeAcc_eq .B o s), moved8_isMoved s.b s.p⟩,
    ⟨_, congrArg Host.Outcome.next (store16_eq s.d o s), moved16_isMoved s.d s.p⟩,
    ⟨_, congrArg Host.Outcome.next (store16_eq s.sp o s), moved16_isMoved s.sp s.p⟩,
    ⟨_, congrArg Host.Outcome.next (store16_eq s.x o s), moved16_isMoved s.x s.p⟩⟩

/-! ## Transfers -/

/-- TSX writes X alone (R120). -/
theorem exec_tsx (s : State) : exec .tsx s = .next { s with x := tsxValue s.cfg.stack s.sp } := rfl

/-- TXS writes S alone (R121). -/
theorem exec_txs (s : State) : exec .txs s = .next { s with sp := txsValue s.cfg.stack s.x } := rfl

/-- Settles O36: TAB and TBA by the flags of a move; TSX and TXS by the value each convention gives. -/
theorem transfersMoveRegisters : Obligations.TransfersMoveRegisters := by
  intro s
  refine ⟨⟨_, rfl, moved8_isMoved s.a s.p⟩, ⟨_, rfl, moved8_isMoved s.b s.p⟩, fun card => ?_, fun hw6800 => ?_⟩
  · rw [exec_tsx, exec_txs, card]
    exact ⟨rfl, rfl⟩
  · rw [exec_tsx, exec_txs, hw6800]
    exact ⟨rfl, rfl⟩

/-- TXS undoes TSX under either convention (R120, R121). -/
theorem txsValue_tsxValue (c : StackConvention) (sp : Word) : txsValue c (tsxValue c sp) = sp := by
  cases c with
  | card => rfl
  | hw6800 => exact BitVec.add_sub_cancel sp 1

/-! ## Pushes and pulls -/

/-- PULA writes the byte pulled to A (R125). -/
theorem exec_pula (s : State) : exec .pula s = .next { (pull8 s).2 with a := (pull8 s).1 } := rfl

/-- PULB writes the byte pulled to B (R126). -/
theorem exec_pulb (s : State) : exec .pulb s = .next { (pull8 s).2 with b := (pull8 s).1 } := rfl

/-- PULX writes the word pulled to X (R127). -/
theorem exec_pulx (s : State) : exec .pulx s = .next { (pull16 s).2 with x := (pull16 s).1 } := rfl

/-- Settles O37: the pushes are the primitives of R13 on their register, the pulls write what is pulled. -/
theorem pushesAndPullsMoveRegisters : Obligations.PushesAndPullsMoveRegisters := fun s =>
  ⟨rfl, rfl, rfl, exec_pula s, exec_pulb s, exec_pulx s⟩

/-- In `ram` a pull straight after a push gives the byte back and leaves S as it was before the push (R13). -/
theorem pull8_push8 (v : Byte) (s : State) (h : s.kindAt (pushAddr s.cfg.stack s.sp) = .ram) :
    pull8 (push8 v s) = (v, (push8 v s).setSP s.sp) :=
  pull8_of_push8 s (push8 v s) v h rfl (push8_sp v s) (push8_cfg v s)

/-- The same of a word (R13). -/
theorem pull16_push16 (v : Word) (s : State) (h : s.kindAt (pushAddr s.cfg.stack s.sp) = .ram)
    (h' : s.kindAt (pushAddr s.cfg.stack (s.sp - 1)) = .ram) :
    pull16 (push16 v s) = (v, (push16 v s).setSP s.sp) :=
  pull16_of_push16 s (push16 v s) v h h' rfl (push16_sp v s) (push16_cfg v s)

/-- Where the stack is `ram`, PSHA and PULB copy A to B and leave what PSHA stored, with S as before (R122, R126). -/
theorem execAll_psha_pulb (s : State) (h : s.kindAt (pushAddr s.cfg.stack s.sp) = .ram) :
    execAll [.psha, .pulb] s = .next (((push8 s.a s).setSP s.sp).setB s.a) := by
  change exec .pulb (push8 s.a s) = _
  rw [exec_pulb, pull8_push8 s.a s h]
  rfl

/-- Where the stack is `ram`, PSHX and PULX leave what PSHX stored, with S and X as before (R124, R127). -/
theorem execAll_pshx_pulx (s : State) (h : s.kindAt (pushAddr s.cfg.stack s.sp) = .ram)
    (h' : s.kindAt (pushAddr s.cfg.stack (s.sp - 1)) = .ram) :
    execAll [.pshx, .pulx] s = .next (((push16 s.x s).setSP s.sp).setX s.x) := by
  change exec .pulx (push16 s.x s) = _
  rw [exec_pulx, pull16_push16 s.x s h h']
  rfl

/-- TSX and TXS write to S what they read from it (R120, R121). -/
theorem execAll_tsx_txs (s : State) :
    execAll [.tsx, .txs] s =
      .next ((s.setX (tsxValue s.cfg.stack s.sp)).setSP (txsValue s.cfg.stack (tsxValue s.cfg.stack s.sp))) := rfl

/-- Settles O38: the states that the three pairs of instructions leave, and what a push leaves alone. -/
theorem pullUndoesPush : Obligations.PullUndoesPush := by
  intro s
  refine ⟨fun ram => ?_, fun ram ram' => ?_, ⟨_, execAll_tsx_txs s, txsValue_tsxValue s.cfg.stack s.sp⟩⟩
  · exact ⟨_, execAll_psha_pulb s ram, rfl, push8_a s.a s, rfl, push8_p s.a s⟩
  · exact ⟨_, execAll_pshx_pulx s ram ram', rfl, rfl, push16_p s.x s⟩

end Sys2Proof.Machine
end

section
/-!
Decimal adjust (41_arithmetic.md R152): the correction as a number, and the decimal sum it makes of a binary one.
-/

namespace Sys2Proof.Machine

/-! ## The correction -/

/-- The correction of R152 as a number: 6 for the low digit, 96 for the high digit of `a`, under H and C. -/
def decimalCorrection (a : Nat) (h c : Bool) : Nat :=
  (if a % 16 > 9 ∨ h = true then 6 else 0) + (if a / 16 > 9 ∨ c = true ∨ (a / 16 > 8 ∧ a % 16 > 9) then 96 else 0)

/-- The two parts of the correction have no bit in common, so putting them together adds them. -/
theorem daaCorrection_toNat (a : Byte) (h c : Bool) :
    (daaCorrection a h c).toNat = decimalCorrection a.toNat h c := by
  dsimp only [daaCorrection, decimalCorrection]
  split <;> split <;> rfl

/-- DAA adds the correction modulo 256. -/
theorem daa8_toNat (a : Byte) (v : Bool) (p : CCR) :
    (daa8 a v p).1.toNat = (a.toNat + decimalCorrection a.toNat p.h p.c) % 256 := by
  have := a.isLt
  have := (daaCorrection a p.h p.c).isLt
  rw [← daaCorrection_toNat]
  simp only [daa8, BitVec.toNat_setWidth, BitVec.toNat_add]
  omega

/-- A carry out of bit 7 sets C, and nothing clears it. -/
theorem daa8_carry (a : Byte) (v : Bool) (p : CCR) :
    (daa8 a v p).2.c = (p.c || decide (256 ≤ a.toNat + decimalCorrection a.toNat p.h p.c)) := by
  have := a.isLt
  have := (daaCorrection a p.h p.c).isLt
  rw [← daaCorrection_toNat]
  change (p.c || BitVec.msb (_ : BitVec 9)) = _
  rw [BitVec.msb_eq_decide, BitVec.toNat_add, BitVec.toNat_setWidth, BitVec.toNat_setWidth]
  congr 2
  simp only [eq_iff_iff]
  omega

/-- N and Z are those of the adjusted byte. -/
theorem daa8_isCounted (a : Byte) (v : Bool) (p : CCR) : IsCounted8 (daa8 a v p).1 p (daa8 a v p).2 :=
  ⟨neg_byte _, zero_byte _, rfl, rfl⟩

/-- DAA writes A, the flags and the count of draws; its V is the next free bit. -/
theorem exec_daa (s : State) :
    exec .daa s = .next { s with
      a := (daa8 s.a (Config.freeBit s.draws) s.p).1
      p := (daa8 s.a (Config.freeBit s.draws) s.p).2
      draws := s.draws + 1 } := rfl

/-- Settles O42: DAA is `daa8` with a drawn V, and `daa8` adds the correction. -/
theorem daaAddsTheCorrection : Obligations.DaaAddsTheCorrection := by
  rintro s f rfl
  exact ⟨_, _, exec_daa s, daa8_toNat s.a _ s.p, daa8_isCounted s.a _ s.p, rfl, daa8_carry s.a _ s.p⟩

/-! ## The decimal sum -/

/-- After a sum of packed decimal bytes H, C and the digits of the result say which decimal digits carry: the low digit
is corrected when the low digits add up to more than 9, the high digit when the high digits and that carry do. -/
theorem decimalCorrection_of_sum {x y r : Byte} {cin : Bool} {p q : CCR} (sum : IsSum8 x y cin p r q) (hx : IsBcd x)
    (hy : IsBcd y) {low high : Nat} (hlow : low = x.toNat % 16 + y.toNat % 16 + cin.toNat)
    (hhigh : high = x.toNat / 16 + y.toNat / 16 + low / 10) :
    decimalCorrection r.toNat q.h q.c = 6 * (low / 10) + 96 * (high / 10) := by
  obtain ⟨hx0, hx1⟩ := hx
  obtain ⟨hy0, hy1⟩ := hy
  have total := sum.exact
  have half : q.h = true ↔ 16 ≤ low := by rw [sum.half, decide_eq_true_iff, hlow]
  have carry : q.c = true ↔ q.c.toNat = 1 := by cases q.c <;> decide
  have := cin.toNat_le
  have := q.c.toNat_le
  have := r.isLt
  have low_digit : (r.toNat % 16 > 9 ∨ q.h = true) ↔ 9 < low := by rw [half]; omega
  have high_digit : (r.toNat / 16 > 9 ∨ q.c = true ∨ (r.toNat / 16 > 8 ∧ r.toNat % 16 > 9)) ↔ 9 < high := by
    rw [carry]; omega
  simp only [decimalCorrection, low_digit, high_digit]
  split <;> split <;> omega

/-- DAA turns the binary sum of packed decimal bytes into the decimal digits of their decimal sum, with its carry in C:
correcting a digit by 6 makes its carry count for 16 instead of 10. -/
theorem daa8_digits_of_sum {x y r : Byte} {cin : Bool} {p q : CCR} (sum : IsSum8 x y cin p r q) (hx : IsBcd x)
    (hy : IsBcd y) (v : Bool) {low high : Nat} (hlow : low = x.toNat % 16 + y.toNat % 16 + cin.toNat)
    (hhigh : high = x.toNat / 16 + y.toNat / 16 + low / 10) :
    (daa8 r v q).1.toNat = 16 * (high % 10) + low % 10 ∧ (daa8 r v q).2.c.toNat = high / 10 := by
  have correction := decimalCorrection_of_sum sum hx hy hlow hhigh
  obtain ⟨hx0, hx1⟩ := hx
  obtain ⟨hy0, hy1⟩ := hy
  have total : r.toNat + 256 * q.c.toNat + 6 * (low / 10) = 16 * high + low % 10 := by
    have := sum.exact
    omega
  have := cin.toNat_le
  have := r.isLt
  have := q.c.toNat_le
  have tens : (10 ≤ high ∧ high / 10 = 1) ∨ (high < 10 ∧ high / 10 = 0) := by omega
  constructor
  · rw [daa8_toNat, correction]
    omega
  · have carry : (daa8 r v q).2.c = true ↔ 10 ≤ high := by
      rw [daa8_carry, correction, Bool.or_eq_true, decide_eq_true_iff, ← Bool.toNat_eq_one]
      omega
    rw [← Bool.toNat_eq_one] at carry
    have := (daa8 r v q).2.c.toNat_le
    omega

/-- So the adjusted byte is packed decimal, and with C it stands for the sum of what the operands stand for. -/
theorem daa8_of_sum {x y r : Byte} {cin : Bool} {p q : CCR} (sum : IsSum8 x y cin p r q) (hx : IsBcd x)
    (hy : IsBcd y) (v : Bool) :
    IsBcd (daa8 r v q).1 ∧
      bcdValue (daa8 r v q).1 + 100 * (daa8 r v q).2.c.toNat = bcdValue x + bcdValue y + cin.toNat := by
  obtain ⟨byte, carry⟩ := daa8_digits_of_sum sum hx hy v rfl rfl
  unfold IsBcd bcdValue
  rw [byte, carry]
  omega

/-- Settles O43: each of the three additions is `Add8`, which is exact (`add8_isSum`), and DAA adjusts its sum. -/
theorem daaGivesTheDecimalSum : Obligations.DaaGivesTheDecimalSum := fun o s ha =>
  ⟨fun hb => ⟨_, rfl, daa8_of_sum (add8_isSum s.a s.b false s.p) ha hb _⟩,
    fun hm => ⟨⟨_, rfl, daa8_of_sum (add8_isSum s.a (src8 o s).1 false s.p) ha hm _⟩,
      ⟨_, rfl, daa8_of_sum (add8_isSum s.a (src8 o s).1 s.p.c s.p) ha hm _⟩⟩⟩

end Sys2Proof.Machine
end

section
/-!
Multiply, counts of a word, and negation (41_arithmetic.md R141, R153 to R155, R160 to R163).
-/

namespace Sys2Proof.Machine

/-! ## Multiply and counts -/

/-- Bit 7 of a word is that of its low byte. -/
theorem loByte_getLsbD_seven (v : Word) : (loByte v).getLsbD 7 = v.getLsbD 7 := by
  simp [loByte]

/-- MUL writes the halves of the product to A and B, and to C bit 7 of the low one (R153). -/
theorem exec_mul (s : State) :
    exec .mul s = .next { s with
      a := hiByte (mul8 s.a s.b s.p).1
      b := loByte (mul8 s.a s.b s.p).1
      p := { s.p with c := (loByte (mul8 s.a s.b s.p).1).getLsbD 7 } } := by
  rw [loByte_getLsbD_seven]
  rfl

/-- The two halves of the product put together are the product (R153). -/
theorem mul8_halves (a b : Byte) (p : CCR) :
    256 * (hiByte (mul8 a b p).1).toNat + (loByte (mul8 a b p).1).toNat = a.toNat * b.toNat := by
  rw [← join_toNat, join_hi_lo, mul8_exact]

/-- A count up gives zero exactly from the greatest word (R162). -/
theorem add_one_beq_zero (x : Word) : (x + 1 == 0) = decide (x.toNat = 65535) := by
  rw [zero_word, decide_eq_decide]
  bv_omega

/-- A count down gives zero exactly from 1 (R163). -/
theorem sub_one_beq_zero (x : Word) : (x - 1 == 0) = decide (x.toNat = 1) := by
  rw [zero_word, decide_eq_decide]
  bv_omega

/-- A count of X writes X and Z (R162, R163). -/
theorem countX_eq (v : Word) (s : State) : countX v s = { s with x := v, p := { s.p with z := v == 0 } } := rfl

/-- Settles O44: the product is exact (`mul8_exact`), B is extended with zeros, and Z of a count tells the one operand
that it takes to zero. -/
theorem multiplyAndCountsAreExact : Obligations.MultiplyAndCountsAreExact := by
  intro s
  refine ⟨⟨_, _, exec_mul s, mul8_halves s.a s.b s.p⟩, ⟨s.x + zext16 s.b, rfl, ?_⟩, rfl, rfl, ?_, ?_⟩
  · rw [BitVec.toNat_add, zext16_toNat]
  · rw [← add_one_beq_zero, ← countX_eq]
    rfl
  · rw [← sub_one_beq_zero, ← countX_eq]
    rfl

/-! ## Negation -/

/-- NEG reads its operand, and writes what `Sub8` makes of zero and it, with the flags (R154). -/
theorem exec_neg (o : MemOp) (s : State) :
    exec (.neg o) s = .next (memWrite8 (ea o.mode s) (neg8 (memRead8 (ea o.mode s) s).1 s.p).1
      { (memRead8 (ea o.mode s) s).2 with p := (neg8 (memRead8 (ea o.mode s) s).1 s.p).2 }) := by
  rw [← memRead8_p (ea o.mode s) s]
  rfl

/-- Settles O45: each of the three is `Sub8` of zero and the operand, which is exact (`sub8_isDiff`). -/
theorem negatesSubtractFromZero : Obligations.NegatesSubtractFromZero := fun o s =>
  ⟨⟨_, _, exec_neg o s, sub8_isDiff 0 (memRead8 (ea o.mode s) s).1 false s.p⟩,
    ⟨_, _, rfl, sub8_isDiff 0 s.a false s.p⟩, ⟨_, _, rfl, sub8_isDiff 0 s.b false s.p⟩⟩

end Sys2Proof.Machine
end

section
/-!
Branches after a compare (41_arithmetic.md R145, R147, R149, R150; 44_branch_jump.md R209): what the flags of a
difference say of the order of the operands, and which flags each branch tests.
-/

namespace Sys2Proof.Machine

/-! ## The flags of a difference -/

section
variable {x y r : Byte} {p q : CCR}

/-- Z says that the operands are equal. -/
theorem IsDiff8.zero_eq (diff : IsDiff8 x y false p r q) : q.z = decide (x = y) := by
  have total := diff.exact
  have := q.c.toNat_le
  have := r.isLt
  have := x.isLt
  have := y.isLt
  rw [diff.zero, decide_eq_decide, ← BitVec.toNat_inj]
  simp only [Bool.toNat_false] at total
  omega

/-- C says that the first operand is the lower one as unsigned numbers. -/
theorem IsDiff8.carry_eq (diff : IsDiff8 x y false p r q) : q.c = decide (x.toNat < y.toNat) := by
  have total := diff.exact
  have := r.isLt
  have := x.isLt
  have := y.isLt
  rw [Bool.toNat_false] at total
  cases hc : q.c <;> simp only [hc, Bool.toNat_true, Bool.toNat_false] at total
  · exact (decide_eq_false (by omega)).symm
  · exact (decide_eq_true (by omega)).symm

/-- N xor V says that the first operand is the lower one as signed numbers: N is the sign of the difference where it
fits (V = 0), the opposite of it where it does not. -/
theorem IsDiff8.sign_eq (diff : IsDiff8 x y false p r q) : (q.n ^^ q.v) = decide (x.toInt < y.toInt) := by
  have total := diff.exact
  have := q.c.toNat_le
  rw [Bool.toNat_false] at total
  have wraps : r.toInt = x.toInt - y.toInt ∨
      (r.toInt = x.toInt - y.toInt - 256 ∧ r.toInt < 0 ∧ y.toInt < x.toInt) ∨
      (r.toInt = x.toInt - y.toInt + 256 ∧ 0 ≤ r.toInt ∧ x.toInt < y.toInt) := by
    simp only [int_byte]
    split <;> split <;> split <;> omega
  rw [diff.negative, diff.overflow, Bool.eq_iff_iff, Bool.xor_iff_ne, Bool.toNat_false, Nat.cast_zero, sub_zero, ne_eq,
    decide_eq_decide, decide_eq_true_iff]
  omega

/-- C or Z says that the first operand is at most the second as unsigned numbers. -/
theorem IsDiff8.lower_or_same_eq (diff : IsDiff8 x y false p r q) : (q.c || q.z) = decide (x.toNat ≤ y.toNat) := by
  rw [diff.carry_eq, diff.zero_eq, ← Bool.decide_or, decide_eq_decide, Nat.le_iff_lt_or_eq, BitVec.toNat_inj]

/-- Z or (N xor V) says that the first operand is at most the second as signed numbers. -/
theorem IsDiff8.less_or_equal_eq (diff : IsDiff8 x y false p r q) :
    (q.z || (q.n ^^ q.v)) = decide (x.toInt ≤ y.toInt) := by
  rw [diff.sign_eq, diff.zero_eq, ← Bool.decide_or, decide_eq_decide, Int.le_iff_lt_or_eq, BitVec.toInt_inj, or_comm]

end

/-- A flag that decides `P`, negated, decides what `P` excludes. -/
theorem not_eq_decide {flag : Bool} {P Q : Prop} [Decidable P] [Decidable Q] (h : flag = decide P) (hPQ : ¬ P ↔ Q) :
    (!flag) = decide Q := by
  rw [h, ← decide_not, decide_eq_decide, hPQ]

/-! ## The branches -/

/-- An outcome that goes to the target or on, by a condition, is that of a branch with this condition (R91, R209). -/
theorem next_branchIf {go : Bool → Result} {rel : Byte} {t : State}
    (hgo : ∀ f, go f = .next (if f = true then { t with pc := BitVec.ofInt 16 (t.pc.toNat + rel.toInt) } else t))
    (c : Bool) : .next (branchIf c rel t) = go c := by
  rw [hgo, ← add_sext16]
  rfl

/-- Settles O55: the compare or subtraction leaves the flags of the difference of its operands, each branch tests a
condition on them, and the condition says how the operands compare. -/
theorem branchesAfterCompareReadTheOrder : Obligations.BranchesAfterCompareReadTheOrder := by
  intro o rel s t r m go compared hgo
  obtain ⟨d, diff⟩ : ∃ d, IsDiff8 r m false s.p d t.p := by
    obtain ⟨rfl, rfl, h⟩ | ⟨rfl, rfl, h⟩ | ⟨rfl, rfl, h⟩ := compared <;> obtain h | h := h <;> cases h <;>
      exact ⟨_, sub8_isDiff _ _ false s.p⟩
  have branch {c order : Bool} (h : c = order) : .next (branchIf c rel t) = go order := h ▸ next_branchIf hgo c
  exact ⟨branch diff.zero_eq, branch (not_eq_decide diff.zero_eq .rfl),
    branch (not_eq_decide diff.lower_or_same_eq Nat.not_le), branch diff.lower_or_same_eq,
    branch (not_eq_decide diff.carry_eq Nat.not_lt), branch (not_eq_decide diff.carry_eq Nat.not_lt),
    branch diff.carry_eq, branch diff.carry_eq,
    branch (not_eq_decide diff.less_or_equal_eq Int.not_le), branch (not_eq_decide diff.sign_eq Int.not_lt),
    branch diff.sign_eq, branch diff.less_or_equal_eq⟩

end Sys2Proof.Machine
end

section
/-!
Logic (42_logic.md R180 to R185): each instruction is a shared operation of Machine/Logic.lean, whose equations stand here
once; the flags are those of a move of the result, exact by `moved8_isMoved`.
-/

namespace Sys2Proof.Machine

/-! ## Complement -/

/-- The complement of a byte as a number (R184). -/
theorem not_byte_toNat (m : Byte) : (~~~m).toNat = 255 - m.toNat := BitVec.toNat_not

/-- COM reads its operand, and writes what `com8` makes of it, with the flags (R184). -/
theorem exec_com (o : MemOp) (s : State) :
    exec (.com o) s = .next (memWrite8 (ea o.mode s) (~~~(memRead8 (ea o.mode s) s).1)
      { (memRead8 (ea o.mode s) s).2 with p := { s.p.moved8 (~~~(memRead8 (ea o.mode s) s).1) with c := true } }) := by
  rw [← memRead8_p (ea o.mode s) s]
  rfl

/-- COMA complements A (R185). -/
theorem exec_coma (s : State) :
    exec .coma s = .next { s with a := ~~~s.a, p := { s.p.moved8 (~~~s.a) with c := true } } := rfl

/-- COMB complements B (R185). -/
theorem exec_comb (s : State) :
    exec .comb s = .next { s with b := ~~~s.b, p := { s.p.moved8 (~~~s.b) with c := true } } := rfl

/-- COMA applied twice gives A back, with C set (R185). -/
theorem execAll_coma_coma (s : State) : ∃ t, execAll [.coma, .coma] s = .next t ∧ t.a = s.a ∧ t.p.c = true := by
  simp only [execAll, exec_coma]
  exact ⟨_, rfl, BitVec.not_not, rfl⟩

/-- Settles O49: each of the three writes the bitwise complement, which is 255 minus the operand. -/
theorem complementsInvertTheBits : Obligations.ComplementsInvertTheBits := by
  rintro o s _ rfl
  exact ⟨⟨_, _, exec_com o s, not_byte_toNat _, moved8_isMoved _ s.p⟩,
    ⟨_, _, exec_coma s, not_byte_toNat s.a, moved8_isMoved _ s.p⟩,
    ⟨_, _, exec_comb s, not_byte_toNat s.b, moved8_isMoved _ s.p⟩, execAll_coma_coma s⟩

/-! ## Combinations bit by bit -/

section
variable (op : Byte → Byte → Byte) (o : Src8) (s : State)

/-- A combination into A writes A and the flags of the result's move, after the read of the operand (R180, R182, R183). -/
theorem next_logicAcc_A : (.next (logicAcc .A op o s) : Result) = .next
    { (src8 o s).2 with a := op s.a (src8 o s).1, p := s.p.moved8 (op s.a (src8 o s).1) } := rfl

/-- The same into B (R180, R182, R183). -/
theorem next_logicAcc_B : (.next (logicAcc .B op o s) : Result) = .next
    { (src8 o s).2 with b := op s.b (src8 o s).1, p := s.p.moved8 (op s.b (src8 o s).1) } := rfl

/-- A bit test writes the flags of the AND's move alone, after the read of the operand (R181). -/
theorem next_bitTest (r : Acc) : (.next (bitTest r o s) : Result) = .next
    { (src8 o s).2 with p := s.p.moved8 (s.acc r &&& (src8 o s).1) } := rfl

end

/-- Settles O48: `next_logicAcc_A` and `next_logicAcc_B` with each of the three operations, which the library defines
bit by bit; `next_bitTest` takes the flags of the AND. -/
theorem logicCombinesBitByBit : Obligations.LogicCombinesBitByBit := by
  rintro o s _ rfl
  exact ⟨⟨_, _, next_logicAcc_A (· &&& ·) o s, next_bitTest o s .A, moved8_isMoved _ s.p, fun _ => BitVec.getLsbD_and⟩,
    ⟨_, _, next_logicAcc_B (· &&& ·) o s, next_bitTest o s .B, moved8_isMoved _ s.p, fun _ => BitVec.getLsbD_and⟩,
    ⟨_, _, next_logicAcc_A (· ^^^ ·) o s, moved8_isMoved _ s.p, fun _ => BitVec.getLsbD_xor⟩,
    ⟨_, _, next_logicAcc_B (· ^^^ ·) o s, moved8_isMoved _ s.p, fun _ => BitVec.getLsbD_xor⟩,
    ⟨_, _, next_logicAcc_A (· ||| ·) o s, moved8_isMoved _ s.p, fun _ => BitVec.getLsbD_or⟩,
    ⟨_, _, next_logicAcc_B (· ||| ·) o s, moved8_isMoved _ s.p, fun _ => BitVec.getLsbD_or⟩⟩

end Sys2Proof.Machine
end

section
/-!
Shifts (43_shift_rotate.md R189 to R197): each instruction is its helper of Machine/Flags.lean applied to the operand. The
helper is exact by the laws of Laws/Flags.lean; what it does to the flags stands here.
-/

namespace Sys2Proof.Machine

/-! ## The flags of a shift -/

/-- N and Z are those of the byte that ASL gives. -/
theorem asl8_isCounted (m : Byte) (p : CCR) : IsCounted8 (asl8 m p).1 p (asl8 m p).2 :=
  ⟨neg_byte _, zero_byte _, rfl, rfl⟩

/-- N and Z are those of the byte that ASR gives. -/
theorem asr8_isCounted (m : Byte) (p : CCR) : IsCounted8 (asr8 m p).1 p (asr8 m p).2 :=
  ⟨neg_byte _, zero_byte _, rfl, rfl⟩

/-- LSR clears N, and half a byte is not negative (R195). -/
theorem lsr8_isCounted (m : Byte) (p : CCR) : IsCounted8 (lsr8 m p).1 p (lsr8 m p).2 where
  negative := by
    have halved := lsr8_exact m p
    have := m.isLt
    change false = _
    rw [← neg_byte, top_byte, eq_comm, decide_eq_false_iff_not]
    omega
  zero := zero_byte _
  half := rfl
  mask := rfl

/-- N and Z are those of the word that ASLD gives. -/
theorem asl16_isCounted (d : Word) (p : CCR) : IsCounted16 (asl16 d p).1 p (asl16 d p).2 :=
  ⟨neg_word _, zero_word _, rfl, rfl⟩

/-- LSRD clears N, and half a word is not negative (R197). -/
theorem lsr16_isCounted (d : Word) (p : CCR) : IsCounted16 (lsr16 d p).1 p (lsr16 d p).2 where
  negative := by
    have halved := lsr16_exact d p
    have := d.isLt
    change false = _
    rw [← neg_word, top_word, eq_comm, decide_eq_false_iff_not]
    omega
  zero := zero_word _
  half := rfl
  mask := rfl

/-! ## The instructions -/

/-- A computation of a value and flags, in memory: the flags are computed from P as it was before the read (R56). -/
theorem next_modifyMem_withFlags (f : Byte → CCR → Byte × CCR) (o : MemOp) (s : State) :
    (.next (modifyMem o (withFlags f) s) : Result) =
      .next (memWrite8 (ea o.mode s) (f (memRead8 (ea o.mode s) s).1 s.p).1
        { (memRead8 (ea o.mode s) s).2 with p := (f (memRead8 (ea o.mode s) s).1 s.p).2 }) := by
  rw [← memRead8_p (ea o.mode s) s]
  rfl

/-- Settles O50: the three shifts of memory are `asl8`, `asr8` and `lsr8` on the byte read. -/
theorem memoryShiftsMoveOneBit : Obligations.MemoryShiftsMoveOneBit := by
  rintro o s _ rfl
  exact ⟨⟨_, _, next_modifyMem_withFlags asl8 o s, asl8_exact _ s.p, asl8_isCounted _ s.p, rfl⟩,
    ⟨_, _, next_modifyMem_withFlags asr8 o s, asr8_exact _ s.p, asr8_isCounted _ s.p, rfl⟩,
    ⟨_, _, next_modifyMem_withFlags lsr8 o s, lsr8_exact _ s.p, lsr8_isCounted _ s.p, rfl⟩⟩

/-- A shift of D puts the high byte of its result into A and the low byte into B (R22, R192, R197). -/
theorem next_shiftD (f : Word → CCR → Word × CCR) (s : State) :
    (.next (shiftD f s) : Result) = .next { s with
      a := hiByte (f (s.a ++ s.b) s.p).1
      b := loByte (f (s.a ++ s.b) s.p).1
      p := (f (s.a ++ s.b) s.p).2 } := rfl

/-- Settles O51: the shifts of A and B are those of a byte, the shifts of D are exact on the word `A:B`. -/
theorem accumulatorShiftsMoveOneBit : Obligations.AccumulatorShiftsMoveOneBit := by
  intro s
  refine ⟨⟨_, _, rfl, asl8_exact s.a s.p, asl8_isCounted s.a s.p, rfl⟩,
    ⟨_, _, rfl, asl8_exact s.b s.p, asl8_isCounted s.b s.p, rfl⟩,
    ⟨_, _, _, next_shiftD asl16 s, ?_⟩,
    ⟨_, _, rfl, asr8_exact s.a s.p, asr8_isCounted s.a s.p, rfl⟩,
    ⟨_, _, rfl, asr8_exact s.b s.p, asr8_isCounted s.b s.p, rfl⟩,
    ⟨_, _, rfl, lsr8_exact s.a s.p, lsr8_isCounted s.a s.p, rfl⟩,
    ⟨_, _, rfl, lsr8_exact s.b s.p, lsr8_isCounted s.b s.p, rfl⟩,
    ⟨_, _, _, next_shiftD lsr16 s, ?_⟩⟩
  · rw [hiByte_append_loByte]
    exact ⟨asl16_exact _ s.p, asl16_isCounted _ s.p, rfl⟩
  · rw [hiByte_append_loByte]
    exact ⟨lsr16_exact _ s.p, lsr16_isCounted _ s.p, rfl⟩

end Sys2Proof.Machine
end

section
/-!
Rotates (43_shift_rotate.md R198 to R201): ROL and ROR turn the nine bits of C and the operand, wherever the operand is; nine
turns are none. A shift of one half of `A:B` and a rotate of the other make the shift of the word.
-/

namespace Sys2Proof.Machine

/-! ## One turn of the nine bits -/

/-- A bit is known by its number. -/
theorem bool_eq_of_toNat_eq {x y : Bool} (h : x.toNat = y.toNat) : x = y := by
  revert x y
  decide

/-- A byte and C turned left by one place (R198). -/
def turnLeft (x : Byte × Bool) : Byte × Bool := (rolByte x.1 x.2, x.1.getLsbD 7)

/-- A byte and C turned right by one place (R200). -/
def turnRight (x : Byte × Bool) : Byte × Bool := (rorByte x.1 x.2, x.1.getLsbD 0)

/-- The turn to the left is the doubling of the byte with C below it, the top bit going to C. -/
theorem turnLeft_eq_iff {m r : Byte} {c out : Bool} :
    turnLeft (m, c) = (r, out) ↔ r.toNat + 256 * out.toNat = 2 * m.toNat + c.toNat := by
  have turned := rolByte_exact m c
  refine ⟨fun h => by cases h; exact turned, fun h => ?_⟩
  have := r.isLt
  have := (rolByte m c).isLt
  have byte : rolByte m c = r := BitVec.eq_of_toNat_eq (by omega)
  have carry : m.getLsbD 7 = out := bool_eq_of_toNat_eq (by omega)
  exact congrArg₂ Prod.mk byte carry

/-- The turn to the right is the halving of the byte with C above it, the lowest bit going to C. -/
theorem turnRight_eq_iff {m r : Byte} {c out : Bool} :
    turnRight (m, c) = (r, out) ↔ 2 * r.toNat + out.toNat = m.toNat + 256 * c.toNat := by
  have turned := rorByte_exact m c
  refine ⟨fun h => by cases h; exact turned, fun h => ?_⟩
  have := out.toNat_le
  have := (m.getLsbD 0).toNat_le
  have byte : rorByte m c = r := BitVec.eq_of_toNat_eq (by omega)
  have carry : m.getLsbD 0 = out := bool_eq_of_toNat_eq (by omega)
  exact congrArg₂ Prod.mk byte carry

/-! ## The rotates -/

/-- The operation turns the byte and C by `turn`, and writes the flags of a rotate and the count of draws alone: N and Z are
the result's, and V is left open, N xor C being its value under `m6800` (R33, R189). -/
def Rotates (turn : Byte × Bool → Byte × Bool) (f : Byte → State → Byte × State) : Prop :=
  ∀ m s, ∃ r q d, f m s = (r, { s with p := q, draws := d }) ∧ turn (m, s.p.c) = (r, q.c) ∧ IsCounted8 r s.p q ∧
    OpenV s (q.n ^^ q.c) q.v d

/-- ROL turns to the left (R198). -/
theorem rol8_rotates : Rotates turnLeft rol8 := fun m s => by
  obtain ⟨q, d, result, counted, carry, openV⟩ := rol8_spec m s
  exact ⟨_, q, d, result, Prod.ext rfl carry.symm, counted, openV⟩

/-- ROR turns to the right (R200). -/
theorem ror8_rotates : Rotates turnRight ror8 := fun m s => by
  obtain ⟨q, d, result, counted, carry, openV⟩ := ror8_spec m s
  exact ⟨_, q, d, result, Prod.ext rfl carry.symm, counted, openV⟩

section
variable {turn : Byte × Bool → Byte × Bool} {f : Byte → State → Byte × State}

/-- A rotate in memory (R198, R200). -/
theorem Rotates.modifyMem (h : Rotates turn f) (o : MemOp) (s : State) {m : Byte × State}
    (hm : m = memRead8 (ea o.mode s) s) :
    ∃ r q d, (.next (modifyMem o f s) : Result) =
        .next (memWrite8 (ea o.mode s) r { m.2 with p := q, draws := d }) ∧
      turn (m.1, s.p.c) = (r, q.c) ∧ IsCounted8 r s.p q ∧ OpenV m.2 (q.n ^^ q.c) q.v d := by
  obtain ⟨r, q, d, result, turned, counted, openV⟩ := h m.1 m.2
  have flags : m.2.p = s.p := by rw [hm, memRead8_p]
  rw [flags] at turned counted
  exact ⟨r, q, d, by simp only [Machine.modifyMem, ← hm, result], turned, counted, openV⟩

/-- A rotate of an accumulator (R199, R201). -/
theorem Rotates.modifyAcc (h : Rotates turn f) (acc : Acc) (s : State) :
    ∃ r q d, (.next (modifyAcc acc f s) : Result) = .next (State.setAcc acc { s with p := q, draws := d } r) ∧
      turn (s.acc acc, s.p.c) = (r, q.c) ∧ IsCounted8 r s.p q ∧ OpenV s (q.n ^^ q.c) q.v d := by
  obtain ⟨r, q, d, result, rotated⟩ := h (s.acc acc) s
  exact ⟨r, q, d, by simp only [Machine.modifyAcc, result], rotated⟩

end

/-- Settles O52: ROL and ROR turn the nine bits to the left and to the right, wherever their operand is. -/
theorem rotatesTurnNineBits : Obligations.RotatesTurnNineBits := by
  unfold Obligations.RotatesTurnNineBits
  simp only [← turnLeft_eq_iff, ← turnRight_eq_iff]
  exact fun o s _ hm => ⟨rol8_rotates.modifyMem o s hm, ror8_rotates.modifyMem o s hm, rol8_rotates.modifyAcc .A s,
    rol8_rotates.modifyAcc .B s, ror8_rotates.modifyAcc .A s, ror8_rotates.modifyAcc .B s⟩

/-! ## Nine turns -/

/-- The operand of `o` is the same byte of `ram` in both states, and no other byte of memory differs between them. -/
structure DiffersAtOperand (o : MemOp) (s t : State) : Prop where
  address : ea o.mode t = ea o.mode s
  ram : t.kindAt (ea o.mode s) = .ram
  others : ∀ addr, addr ≠ ea o.mode s → t.mem.read addr = s.mem.read addr

/-- An address depends on X alone (R88 to R90). -/
theorem ea_of_x {s t : State} (h : t.x = s.x) (m : Mode) : ea m t = ea m s := by
  cases m <;> simp only [ea, h]

section
variable {turn : Byte × Bool → Byte × Bool} {f : Byte → State → Byte × State}

/-- Nine rotates of an accumulator leave it and C as they were. -/
theorem Rotates.nine_acc (h : Rotates turn f) (nine : ∀ x, turn^[9] x = x) {i : Instr} (acc : Acc)
    (hi : ∀ s, exec i s = .next (Machine.modifyAcc acc f s)) (s : State) :
    ∃ t, execAll (List.replicate 9 i) s = .next t ∧ t.acc acc = s.acc acc ∧ t.p.c = s.p.c := by
  have once (s : State) : ∃ t, exec i s = .next t ∧ True ∧ (t.acc acc, t.p.c) = turn (s.acc acc, s.p.c) := by
    obtain ⟨r, q, d, result, turned, -, -⟩ := h.modifyAcc acc s
    exact ⟨_, (hi s).trans result, trivial, by rw [turned, State.setAcc_p]; cases acc <;> rfl⟩
  obtain ⟨t, run, -, view⟩ := execAll_replicate i (fun t => (t.acc acc, t.p.c)) turn (fun _ => True)
    (fun s _ => once s) 9 s trivial
  rw [nine] at view
  obtain ⟨acc_eq, carry⟩ := Prod.mk.inj view
  exact ⟨t, run, acc_eq, carry⟩

/-- A rotate of a byte of `ram` turns that byte and C, and no other byte of memory. -/
theorem Rotates.modifyMem_ram (h : Rotates turn f) {o : MemOp} {s t : State} (ht : DiffersAtOperand o s t) :
    DiffersAtOperand o s (Machine.modifyMem o f t) ∧
      ((Machine.modifyMem o f t).mem.read (ea o.mode s), (Machine.modifyMem o f t).p.c) =
        turn (t.mem.read (ea o.mode s), t.p.c) := by
  obtain ⟨r, q, d, result, turned, -, -⟩ := h (t.mem.read (ea o.mode s)) t
  have stored : Machine.modifyMem o f t = memWrite8 (ea o.mode s) r { t with p := q, draws := d } := by
    simp only [Machine.modifyMem, ht.address, memRead8_memory _ t (answers_of_ram ht.ram), result]
  rw [stored, turned, memWrite8_read, if_pos ⟨ht.ram, rfl⟩, memWrite8_p]
  refine ⟨⟨?_, ?_, fun addr other => ?_⟩, rfl⟩
  · exact (ea_of_x (memWrite8_x _ _ _) o.mode).trans ht.address
  · rw [memWrite8_kindAt]
    exact ht.ram
  · rw [memWrite8_others _ _ _ _ other]
    exact ht.others addr other

/-- Nine rotates of a byte of `ram` leave memory and C as they were. -/
theorem Rotates.nine_ram (h : Rotates turn f) (nine : ∀ x, turn^[9] x = x) {i : Instr} {o : MemOp}
    (hi : ∀ s, exec i s = .next (Machine.modifyMem o f s)) {s : State} (ram : s.kindAt (ea o.mode s) = .ram) :
    ∃ t, execAll (List.replicate 9 i) s = .next t ∧ t.p.c = s.p.c ∧ ∀ addr, t.mem.read addr = s.mem.read addr := by
  obtain ⟨t, run, differs, view⟩ := execAll_replicate i (fun t => (t.mem.read (ea o.mode s), t.p.c)) turn
    (DiffersAtOperand o s) (fun u hu => ⟨_, hi u, h.modifyMem_ram hu⟩) 9 s ⟨rfl, ram, fun _ _ => rfl⟩
  rw [nine] at view
  obtain ⟨byte, carry⟩ := Prod.mk.inj view
  refine ⟨t, run, carry, fun addr => ?_⟩
  by_cases operand : addr = ea o.mode s
  · rw [operand]
    exact byte
  · exact differs.others addr operand

end

/-! ## A shift of the word `A:B` by bytes -/

/-- ASLD doubles the low byte and rotates what leaves it into the high one (R192). -/
theorem asl16_joinBytes (a b : Byte) (p : CCR) :
    (asl16 (joinBytes a b) p).1 = joinBytes (rolByte a (asl8 b p).2.c) (asl8 b p).1 ∧
      (asl16 (joinBytes a b) p).2.c = a.getLsbD 7 := by
  have word := asl16_exact (joinBytes a b) p
  have high := rolByte_exact a (asl8 b p).2.c
  have low := asl8_exact b p
  rw [join_toNat] at word
  have := (asl16 (joinBytes a b) p).1.isLt
  have bound := (joinBytes (rolByte a (asl8 b p).2.c) (asl8 b p).1).isLt
  rw [join_toNat] at bound
  exact ⟨BitVec.eq_of_toNat_eq (by rw [join_toNat]; omega), bool_eq_of_toNat_eq (by omega)⟩

/-- LSRD halves the high byte and rotates what leaves it into the low one (R197). -/
theorem lsr16_joinBytes (a b : Byte) (p : CCR) :
    (lsr16 (joinBytes a b) p).1 = joinBytes (lsr8 a p).1 (rorByte b (lsr8 a p).2.c) ∧
      (lsr16 (joinBytes a b) p).2.c = b.getLsbD 0 := by
  have word := lsr16_exact (joinBytes a b) p
  have high := lsr8_exact a p
  have low := rorByte_exact b (lsr8 a p).2.c
  rw [join_toNat] at word
  have := (lsr16 (joinBytes a b) p).2.c.toNat_le
  have := (b.getLsbD 0).toNat_le
  exact ⟨BitVec.eq_of_toNat_eq (by rw [join_toNat]; omega), bool_eq_of_toNat_eq (by omega)⟩

/-- ASLB then ROLA leave A, B and C as ASLD does. -/
theorem aslb_rola_eq_asld (s : State) :
    ∃ t u, execAll [.aslb, .rola] s = .next t ∧ exec .asld s = .next u ∧ t.a = u.a ∧ t.b = u.b ∧ t.p.c = u.p.c := by
  obtain ⟨word, carry⟩ := asl16_joinBytes s.a s.b s.p
  refine ⟨modifyAcc .A rol8 (modifyAcc .B (withFlags asl8) s), _, rfl, next_shiftD asl16 s, ?_, ?_, carry.symm⟩
  · exact ((congrArg hiByte word).trans (hi_join _ _)).symm
  · rw [show s.a ++ s.b = joinBytes s.a s.b from rfl, word, lo_join]
    simp [modifyAcc, withFlags, rol8]

/-- LSRA then RORB leave A, B and C as LSRD does. -/
theorem lsra_rorb_eq_lsrd (s : State) :
    ∃ t u, execAll [.lsra, .rorb] s = .next t ∧ exec .lsrd s = .next u ∧ t.a = u.a ∧ t.b = u.b ∧ t.p.c = u.p.c := by
  obtain ⟨word, carry⟩ := lsr16_joinBytes s.a s.b s.p
  refine ⟨modifyAcc .B ror8 (modifyAcc .A (withFlags lsr8) s), _, rfl, next_shiftD lsr16 s, ?_, ?_, carry.symm⟩
  · rw [show s.a ++ s.b = joinBytes s.a s.b from rfl, word, hi_join]
    simp [modifyAcc, withFlags, ror8]
  · exact ((congrArg loByte word).trans (lo_join _ _)).symm

/-- Settles O53: nine turns of nine bits are none (`rolByte_nine`, `rorByte_nine`), and a shift of the word `A:B` is a shift
of one byte and a rotate of the other. -/
theorem rotatesChainThroughTheCarry : Obligations.RotatesChainThroughTheCarry := fun _ s =>
  ⟨rol8_rotates.nine_acc rolByte_nine .A (fun _ => rfl) s,
    rol8_rotates.nine_acc rolByte_nine .B (fun _ => rfl) s,
    ror8_rotates.nine_acc rorByte_nine .A (fun _ => rfl) s,
    ror8_rotates.nine_acc rorByte_nine .B (fun _ => rfl) s,
    fun ram => ⟨rol8_rotates.nine_ram rolByte_nine (fun _ => rfl) ram,
      ror8_rotates.nine_ram rorByte_nine (fun _ => rfl) ram⟩,
    aslb_rola_eq_asld s, lsra_rorb_eq_lsrd s⟩

end Sys2Proof.Machine
end

section
/-!
Branches, jumps and subroutines (44_branch_jump.md R209 to R231): the conditions of the branches as propositions on the
flags, and the return from a call.
-/

namespace Sys2Proof.Machine

/-! ## The conditions of the branches (R210 to R227) -/

/-- N xor V, which BLT tests, says that N and V differ (R223). -/
theorem xor_eq_decide (x y : Bool) : (x ^^ y) = decide (x ≠ y) := by
  rw [Bool.eq_iff_iff, Bool.xor_iff_ne, decide_eq_true_iff]

section
variable {test : Bool} {P Q : Prop} [Decidable P] [Decidable Q] (x : Bool) (h : test = decide P)
include h

/-- A flag or a test, as BLS and BLE combine them (R221, R225). -/
theorem or_eq_decide : (x || test) = decide (x = true ∨ P) := by
  rw [h, Bool.decide_or, Bool.decide_eq_true]

/-- Neither the flag nor the test, as BHI and BGT combine them (R220, R224). -/
theorem nor_eq_decide (hPQ : ¬ P ↔ Q) : (!(x || test)) = decide (x = false ∧ Q) :=
  not_eq_decide (or_eq_decide x h) (by rw [not_or, Bool.not_eq_true, hPQ])

end

/-- Settles O54: each branch is `branchIf` of its condition; the six conditions on two or three flags are put as
propositions on them. -/
theorem branchesTestTheFlags : Obligations.BranchesTestTheFlags := by
  intro rel s go hgo
  have outcome (c : Bool) : .next (branchIf c rel s) = go c := next_branchIf hgo c
  have tests {c condition : Bool} (h : c = condition) : .next (branchIf c rel s) = go condition := h ▸ outcome c
  have zero : s.p.z = decide (s.p.z = true) := Bool.decide_eq_true.symm
  have less : (s.p.n ^^ s.p.v) = decide (s.p.n ≠ s.p.v) := xor_eq_decide s.p.n s.p.v
  exact ⟨outcome true, outcome false, outcome _, outcome _, outcome _, outcome _, outcome _, outcome _, outcome _,
    outcome _, outcome _, outcome _,
    tests (nor_eq_decide s.p.c zero Bool.eq_false_iff.symm), tests (or_eq_decide s.p.c zero),
    tests (not_eq_decide less not_ne_iff), tests less,
    tests (nor_eq_decide s.p.z less not_ne_iff), tests (or_eq_decide s.p.z less)⟩

/-! ## Jumps and calls -/

/-- JMP goes to its effective address (R229). -/
theorem exec_jmp (o : MemOp) (s : State) : exec (.jmp o) s = .next { s with pc := ea o.mode s } := rfl

/-- JSR calls the subroutine at its effective address (R230). -/
theorem exec_jsr (o : MemOp) (s : State) : exec (.jsr o) s = .next (callSubroutine (ea o.mode s) s) := rfl

/-- BSR calls the subroutine at the branch target (R91, R228). -/
theorem exec_bsr (rel : Byte) (s : State) :
    exec (.bsr rel) s = .next (callSubroutine (BitVec.ofInt 16 (s.pc.toNat + rel.toInt)) s) := by
  rw [← add_sext16]
  rfl

/-- RTS writes the word pulled to PC (R231). -/
theorem exec_rts (s : State) : exec .rts s = .next { (pull16 s).2 with pc := (pull16 s).1 } := rfl

/-- Settles O56: the target of BSR is the integer sum of R91, and a call is `push16` of PC followed by the jump. -/
theorem jumpsAndCallsSetThePc : Obligations.JumpsAndCallsSetThePc := fun o rel s =>
  ⟨exec_jmp o s, exec_jsr o s, exec_bsr rel s, exec_rts s⟩

/-! ## Returns -/

/-- Two bytes pushed, the low one first, are the word of both pushed (R13). -/
theorem push8_push8_eq_push16 (h l : Byte) (s : State) : push8 h (push8 l s) = push16 (joinBytes h l) s := by
  rw [push16, hi_join, lo_join]

section
variable {s : State} (ram : s.kindAt (pushAddr s.cfg.stack s.sp) = .ram)
  (ram' : s.kindAt (pushAddr s.cfg.stack (s.sp - 1)) = .ram)
include ram ram'

/-- Wherever PC stands after a word was pushed to `ram`, RTS goes to that word and restores S (R231). -/
theorem exec_rts_push16 (v w : Word) :
    exec .rts ((push16 v s).setPC w) = .next (((push16 v s).setSP s.sp).setPC v) := by
  rw [exec_rts, pull16_of_push16 s ((push16 v s).setPC w) v ram ram' rfl (push16_sp v s) (push16_cfg v s)]
  rfl

/-- A call and RTS at its target leave the return address in PC, and S as before the call (R228, R230, R231). -/
theorem execAll_call_rts {call : Instr} {target : Word} (h : exec call s = .next (callSubroutine target s)) :
    execAll [call, .rts] s = .next (((push16 s.pc s).setSP s.sp).setPC s.pc) := by
  simp only [execAll, h, callSubroutine, exec_rts_push16 ram ram']

/-- PSHB, PSHA and RTS go to the word `A:B` (R122, R123, R231). -/
theorem execAll_pshb_psha_rts :
    execAll [.pshb, .psha, .rts] s = .next (((push16 (joinBytes s.a s.b) s).setSP s.sp).setPC (joinBytes s.a s.b)) := by
  change exec .rts (push8 (push8 s.b s).a (push8 s.b s)) = _
  rw [push8_a, push8_push8_eq_push16]
  exact exec_rts_push16 ram ram' _ (push16 (joinBytes s.a s.b) s).pc

end

/-- Settles O57: RTS pulls the word that the call, or PSHB and PSHA, pushed to `ram`. -/
theorem rtsReturnsBehindTheCall : Obligations.RtsReturnsBehindTheCall := fun o rel s ram ram' =>
  ⟨⟨_, execAll_call_rts ram ram' (exec_jsr o s), rfl, rfl⟩,
    ⟨_, execAll_call_rts ram ram' (exec_bsr rel s), rfl, rfl⟩,
    ⟨_, execAll_pshb_psha_rts ram ram', rfl, rfl⟩⟩

end Sys2Proof.Machine
end

section
/-!
Waiting and its end (45_ccr_system.md R251; 60_exceptions.md R311, R322; 70_reset_and_hazards.md R350).
-/

namespace Sys2Proof.Machine

/-- While the processor waits the boundary never lets it run (R311). -/
theorem boundary_ne_run_of_waiting {u : State} (waits : u.waiting = true) : boundary u ≠ .run := by
  simp only [boundary, waits, if_true]
  split
  · exact Boundary.noConfusion
  · split
    · split <;> exact Boundary.noConfusion
    · exact Boundary.noConfusion

/-- A step at which reset is up answers the state after the reset sequence (R320). -/
theorem step_of_reset {s : State} (h : boundary (envMove s) = .reset) : step s = .next (resetSeq (envMove s)) := by
  simp only [step, moveThenAct, act, h]

/-- A step at which the processor goes on waiting answers the state after the move of the environment (R320). -/
theorem step_of_wait {s : State} (h : boundary (envMove s) = .wait) : step s = .next (envMove s) := by
  simp only [step, moveThenAct, act, h]

/-- Where the processor waits, an interrupt enters its handler from the state as it is, `waiting` and perhaps `nmi_pending`
being cleared: WAI has stacked the frame (R304, R322). -/
theorem takeInterrupt_of_waiting (vec : Word) {u : State} (waits : u.waiting = true) :
    ∃ n, takeInterrupt vec u = enterHandler vec ((u.setWaiting false).setNmiPending n) := by
  simp only [takeInterrupt, waits, if_true]
  split
  · exact ⟨false, rfl⟩
  · exact ⟨u.nmiPending, rfl⟩

/-- Settles O13: the boundary of a waiting processor is not `run`, and each other case is the operation that the step then
is; an interrupt is a handler entry with nothing stacked before it (`takeInterrupt_of_waiting`). -/
theorem waitingEndsByInterruptOrReset : Obligations.WaitingEndsByInterruptOrReset := by
  rintro s u rfl waits
  refine ⟨boundary_ne_run_of_waiting waits, step_of_wait, fun reset => ?_, fun vec accepted => ?_⟩
  · exact ⟨_, step_of_reset reset, resetSeq_waiting _, resetSeq_nmiPending _, resetSeq_i _, resetSeq_mem _⟩
  · have cleared := takeInterrupt_clears_nmiPending accepted
    obtain ⟨n, entry⟩ := takeInterrupt_of_waiting vec waits
    refine ⟨_, step_of_interrupt accepted, ?_, takeInterrupt_waiting vec _, cleared, ?_⟩
    · rw [entry]
      exact enterHandler_inHandler vec rfl rfl
    · rw [entry]
      exact ⟨enterHandler_mem .., enterHandler_sp .., enterHandler_a .., enterHandler_b .., enterHandler_x ..⟩

end Sys2Proof.Machine
end

section
/-!
The return from an exception takes back what its entry stacked (00_scope.md R14; 45_ccr_system.md R249, R250;
60_exceptions.md R307).
-/

namespace Sys2Proof.Machine

/-- The address of the `k`-th byte that the return pulls is that of the `(6 - k)`-th byte that the entry pushed (R13, R14). -/
theorem pullAddr_frame (c : StackConvention) (sp : Word) {k : Nat} (hk : k < 7) :
    pullAddr c (sp - 7 + BitVec.ofNat 16 k) = pushAddr c (sp - BitVec.ofNat 16 (6 - k)) := by
  rw [← pullAddr_pushAddr]
  congr 1
  interval_cases k <;> bv_omega

section
variable {s : State} (ram : ∀ k, k < 7 → s.kindAt (pushAddr s.cfg.stack (s.sp - BitVec.ofNat 16 k)) = .ram)
include ram

/-- In `ram` the `k`-th byte that the return pulls is the `(6 - k)`-th byte of the frame (R14, R307). -/
theorem StacksFrame.read_pullAddr {t : State} (frame : StacksFrame s t) {k : Nat} (hk : k < 7) :
    t.mem.read (pullAddr s.cfg.stack (s.sp - 7 + BitVec.ofNat 16 k)) = frameByte s (6 - k) := by
  rw [pullAddr_frame _ _ hk]
  exact frame.bytes (6 - k) (by omega) (ram (6 - k) (by omega))

/-- The return from a state in which S, memory and the parameters are those that stacking the frame of `s` left gives back
the registers of `s`, whatever the others are (R307). -/
theorem unstackRegs_of_stacksFrame {t u : State} (frame : StacksFrame s t) (hm : u.mem = t.mem) (hs : u.sp = t.sp)
    (hc : u.cfg = s.cfg) :
    unstackRegs u = { u with p := s.p, b := s.b, a := s.a, x := s.x, pc := s.pc, sp := s.sp } := by
  have sp : u.sp = s.sp - 7 := hs.trans frame.sp
  have answer : ∀ k, k < 7 → u.answers (pullAddr u.cfg.stack (u.sp + BitVec.ofNat 16 k)) = true := fun k hk => by
    rw [answers_of_cfg hc, hc, sp, pullAddr_frame _ _ hk]
    exact answers_of_ram (ram (6 - k) (by omega))
  have pulled : ∀ k, k < 7 → u.mem.read (pullAddr u.cfg.stack (u.sp + BitVec.ofNat 16 k)) = frameByte s (6 - k) :=
    fun k hk => by rw [hm, hc, sp, frame.read_pullAddr ram hk]
  have flags : CCR.ofByte (frameByte s 6) = s.p := ofByte_toByte s.cfg.ccrUnused s.p
  have x : joinBytes (frameByte s 3) (frameByte s 2) = s.x := join_hi_lo s.x
  have pc : joinBytes (frameByte s 1) (frameByte s 0) = s.pc := join_hi_lo s.pc
  have level : u.sp + 7 = s.sp := by rw [sp, BitVec.sub_add_cancel]
  rw [unstackRegs_memory u _ (fun _ => rfl) answer, pulled 0 (by decide), pulled 1 (by decide), pulled 2 (by decide),
    pulled 3 (by decide), pulled 4 (by decide), pulled 5 (by decide), pulled 6 (by decide), flags, x, pc, level]
  rfl

end

/-- SWI takes the trap through its vector (R249). -/
theorem exec_swi (s : State) : exec .swi s = .next (takeTrap vecSwi s) := rfl

/-- Taking a trap stacks the frame (R304). -/
theorem takeTrap_stacksFrame (vec : Word) (s : State) : StacksFrame s (takeTrap vec s) :=
  enterHandler_stacksFrame vec (stackRegs_stacksFrame s)

/-- Taking a trap leaves the parameters alone. -/
theorem takeTrap_cfg (vec : Word) (s : State) : (takeTrap vec s).cfg = s.cfg := by
  rw [takeTrap, enterHandler_cfg, stackRegs_cfg]

/-- Settles O17: the trap stacks the frame, and the return takes it back (`unstackRegs_of_stacksFrame`). -/
theorem rtiUndoesTheTrap : Obligations.RtiUndoesTheTrap := by
  intro s t u ram trap hm hs hc
  rw [exec_swi] at trap
  cases trap
  refine ⟨_, exec_rti u, ?_⟩
  rw [unstackRegs_of_stacksFrame ram (takeTrap_stacksFrame vecSwi s) hm hs (hc.trans (takeTrap_cfg vecSwi s))]
  exact ⟨rfl, rfl, rfl, rfl, rfl, rfl⟩

end Sys2Proof.Machine
end

section
/-!
The instructions that write one flag (45_ccr_system.md R240 to R245), and NOP (R248).
-/

namespace Sys2Proof.Machine

/-- Settles O58: each row of the card is a single byte, and each meaning one update of P, that of I through `setI`. -/
theorem flagInstructionsWriteOneFlag : Obligations.FlagInstructionsWriteOneFlag := fun s =>
  ⟨⟨rfl, rfl⟩, ⟨rfl, rfl⟩, ⟨rfl, rfl⟩, ⟨rfl, rfl⟩, ⟨rfl, rfl⟩, ⟨rfl, rfl⟩, ⟨rfl, rfl⟩⟩

end Sys2Proof.Machine
end

section
/-!
The choice at the instruction boundary, case by case, and the pending NMI over a step (60_exceptions.md R302, R304, R310, R311,
R313, R320).
-/

namespace Sys2Proof.Machine

/-! ## The eligible interrupt (R302, R310, R311) -/

/-- The vector of the eligible interrupt: that of a pending NMI, else that of IRQ with its line up and I = 0. -/
theorem eligible_eq_some_iff {s : State} {vec : Word} :
    eligible s = some vec ↔ (s.nmiPending = true ∧ vec = vecNmi) ∨
      (s.nmiPending = false ∧ s.irqLine = true ∧ s.p.i = false ∧ vec = vecIrq) := by
  cases pending : s.nmiPending with
  | true => simp [eligible, pending, eq_comm (a := vec)]
  | false => simp [eligible, pending, eq_comm (a := vec), and_assoc]

/-- No interrupt is eligible: no NMI is pending, and IRQ is masked if its line is up. -/
theorem eligible_eq_none_iff {s : State} :
    eligible s = none ↔ s.nmiPending = false ∧ (s.irqLine = true → s.p.i = true) := by
  cases pending : s.nmiPending with
  | true => simp [eligible, pending]
  | false => simp [eligible, pending]

/-! ## The choice at the boundary (R320) -/

section
variable {s : State}

theorem boundary_of_resetLine (up : s.resetLine = true) : boundary s = .reset := if_pos up

/-- An eligible interrupt that the environment lets be accepted is taken. -/
theorem boundary_of_accepted {vec : Word} (down : s.resetLine = false) (accepts : s.accept = true)
    (he : eligible s = some vec) : boundary s = .interrupt vec := by
  simp [boundary, down, accepts, he]

/-- With no reset and no interrupt accepted the processor goes on as it was, waiting or running. -/
theorem boundary_of_none_accepted (down : s.resetLine = false) (none_accepted : s.accept = true → eligible s = none) :
    boundary s = if s.waiting then .wait else .run := by
  cases he : eligible s with
  | none => simp [boundary, down, he]
  | some vec =>
    have refuses : s.accept = false := by simpa [he] using none_accepted
    simp [boundary, down, he, refuses]

/-- The three situations at a boundary, in the order of their priorities. -/
theorem boundary_situations (s : State) :
    s.resetLine = true ∨ (∃ vec, s.resetLine = false ∧ s.accept = true ∧ eligible s = some vec) ∨
      (s.resetLine = false ∧ (s.accept = true → eligible s = none)) := by
  cases reset : s.resetLine with
  | true => exact .inl rfl
  | false =>
    cases he : eligible s with
    | none => exact .inr (.inr ⟨rfl, fun _ => rfl⟩)
    | some vec =>
      cases accepts : s.accept with
      | true => exact .inr (.inl ⟨vec, rfl, rfl, rfl⟩)
      | false => exact .inr (.inr ⟨rfl, nofun⟩)

theorem boundary_eq_reset_iff : boundary s = .reset ↔ s.resetLine = true := by
  rcases boundary_situations s with up | ⟨vec, down, accepts, he⟩ | ⟨down, none_accepted⟩
  · simp [boundary_of_resetLine up, up]
  · simp [boundary_of_accepted down accepts he, down]
  · cases w : s.waiting <;> simp [boundary_of_none_accepted down none_accepted, down, w]

theorem boundary_eq_interrupt_iff {vec : Word} :
    boundary s = .interrupt vec ↔ s.resetLine = false ∧ s.accept = true ∧ eligible s = some vec := by
  rcases boundary_situations s with up | ⟨v, down, accepts, he⟩ | ⟨down, none_accepted⟩
  · simp [boundary_of_resetLine up, up]
  · simp [boundary_of_accepted down accepts he, down, accepts, he]
  · have not_taken : ¬(s.accept = true ∧ eligible s = some vec) := fun ⟨accepts, he⟩ => by
      simp [none_accepted accepts] at he
    cases w : s.waiting <;> simp [boundary_of_none_accepted down none_accepted, down, w, not_taken]

theorem boundary_eq_wait_iff :
    boundary s = .wait ↔ s.resetLine = false ∧ s.waiting = true ∧ (s.accept = true → eligible s = none) := by
  rcases boundary_situations s with up | ⟨v, down, accepts, he⟩ | ⟨down, none_accepted⟩
  · simp [boundary_of_resetLine up, up]
  · simp [boundary_of_accepted down accepts he, accepts, he]
  · simp [boundary_of_none_accepted down none_accepted, down, iff_true_intro none_accepted]

theorem boundary_eq_run_iff :
    boundary s = .run ↔ s.resetLine = false ∧ s.waiting = false ∧ (s.accept = true → eligible s = none) := by
  rcases boundary_situations s with up | ⟨v, down, accepts, he⟩ | ⟨down, none_accepted⟩
  · simp [boundary_of_resetLine up, up]
  · simp [boundary_of_accepted down accepts he, accepts, he]
  · simp [boundary_of_none_accepted down none_accepted, down, iff_true_intro none_accepted]

end

/-- Settles O9: each case of the boundary through what `eligible` answers, and that through the lines, the latch and I. -/
theorem boundaryFollowsThePriorities : Obligations.BoundaryFollowsThePriorities := by
  intro s
  rw [boundary_eq_wait_iff, boundary_eq_run_iff, eligible_eq_none_iff]
  refine ⟨boundary_eq_reset_iff, fun vec => ?_, Iff.rfl, Iff.rfl⟩
  rw [boundary_eq_interrupt_iff, eligible_eq_some_iff]
  exact Iff.rfl

/-! ## The pending NMI over a step (R304, R313, R350) -/

/-- Fetching an instruction does not touch the pending NMI. -/
theorem fetchInstr_nmiPending {s t : State} {i : Instr} (h : fetchInstr s = .instr i t) :
    t.nmiPending = s.nmiPending := by
  obtain ⟨k, d, l, _, _, rfl⟩ := fetchInstr_state s t i h
  rfl

/-- Settles O11: along the cases of the step, where an interrupt other than NMI is taken only with no NMI pending. -/
theorem nmiStaysPendingUntilTaken : Obligations.NmiStaysPendingUntilTaken := by
  rintro s t u rfl h
  rcases step_cases s t h with ⟨hb, rfl⟩ | ⟨vec, hb, rfl⟩ | ⟨hb, rfl⟩ | ⟨hb, i, v, fetched, executed⟩
  case inl => simp [hb]
  case inr.inl =>
    rw [takeInterrupt_clears_nmiPending hb, hb]
    rcases eligible_eq_some (eligible_of_boundary hb) with ⟨_, rfl⟩ | ⟨none_pending, _⟩
    · simp [vecNmi]
    · simp [none_pending]
  case inr.inr.inl => simp [hb]
  case inr.inr.inr =>
    have kept : t.nmiPending = (envMove s).nmiPending :=
      (exec_unwritten executed).nmiPending.trans (fetchInstr_nmiPending fetched)
    simp [hb, kept]

end Sys2Proof.Machine
end

section
/-!
The reset step (70_reset_and_hazards.md R350, R351; 60_exceptions.md R320).
-/

namespace Sys2Proof.Machine

section
variable {s u : State}

/-- Whatever becomes of the unspecified registers, the reset sequence ends with PC at the word in the vector, where memory
answers there (R350). -/
theorem resetSeq_pc (high : u.answers vecReset = true) (low : u.answers (vecReset + 1) = true) :
    (resetSeq u).pc = joinBytes (u.mem.read vecReset) (u.mem.read (vecReset + 1)) := by
  have word_of_same_memory {v : State} (mem : v.mem = u.mem) (cfg : v.cfg = u.cfg) :
      (memRead16 vecReset v).1 = joinBytes (u.mem.read vecReset) (u.mem.read (vecReset + 1)) := by
    rw [memRead16_memory vecReset v (by rwa [answers_of_cfg cfg]) (by rwa [answers_of_cfg cfg]), mem]
  unfold resetSeq
  split
  · exact word_of_same_memory rfl rfl
  · rw [State.setPC_pc]
    exact word_of_same_memory (by simp) (by simp)

/-- With the registers kept, the reset sequence writes I, the two hidden items and PC, and nothing else (R350). -/
theorem resetSeq_of_kept (kept : u.cfg.resetRegs = .kept) (high : u.answers vecReset = true)
    (low : u.answers (vecReset + 1) = true) :
    resetSeq u = (((u.setI true).setWaiting false).setNmiPending false).setPC
      (joinBytes (u.mem.read vecReset) (u.mem.read (vecReset + 1))) := by
  unfold resetSeq
  rw [kept]
  exact congrArg (fun read => read.2.setPC read.1)
    (memRead16_memory vecReset (((u.setI true).setWaiting false).setNmiPending false) high low)

/-- With the registers kept, a second reset sequence changes nothing further (R350). -/
theorem resetSeq_resetSeq_of_kept (kept : u.cfg.resetRegs = .kept) (high : u.answers vecReset = true)
    (low : u.answers (vecReset + 1) = true) : resetSeq (resetSeq u) = resetSeq u := by
  have cfg := resetSeq_cfg u
  rw [resetSeq_of_kept (u := resetSeq u) (by rwa [cfg]) (by rwa [answers_of_cfg cfg]) (by rwa [answers_of_cfg cfg]),
    resetSeq_mem, resetSeq_of_kept kept high low]
  rfl

/-- A step with the reset line up, once the environment has moved, is the reset sequence (R320, R350). -/
theorem step_of_resetLine (up : (envMove s).resetLine = true) : step s = .next (resetSeq (envMove s)) :=
  step_of_reset (boundary_of_resetLine up)

/-- The reset line that a reset step finds up stays up without a move, so that the next step runs the sequence again. -/
theorem step_resetSeq (still : u.moves = []) (up : u.resetLine = true) :
    step (resetSeq u) = .next (resetSeq (resetSeq u)) := by
  have unmoved : envMove (resetSeq u) = resetSeq u := envMove_of_no_moves ((resetSeq_moves u).trans still)
  rw [step_of_resetLine (by rw [unmoved, resetSeq_resetLine, up]), unmoved]

end

/-- Settles O18: the step is the reset sequence (`step_of_resetLine`), whose effect the lemmas above and the laws of
`resetSeq` state; with the registers kept and no move left, the sequence that the next step runs is without effect. -/
theorem resetStepLoadsTheVector : Obligations.ResetStepLoadsTheVector := by
  rintro s u rfl up
  have reset := step_of_resetLine up
  refine ⟨⟨_, reset, resetSeq_i _, resetSeq_waiting _, resetSeq_nmiPending _, resetSeq_mem _, resetSeq_pc⟩,
    fun kept high low => ⟨?_, fun still t stepped => ?_⟩⟩
  · rw [reset, resetSeq_of_kept kept high low]
    rfl
  · obtain rfl : resetSeq (envMove s) = t := by rwa [reset, Host.Outcome.next.injEq] at stepped
    rw [step_resetSeq still up, resetSeq_resetSeq_of_kept kept high low]

end Sys2Proof.Machine
end
